-- ==== Sys2Proof/Word.lean ====
section
/-!
DEFINITION. The machine's words (00_scope.md R7, R8) and their plainest arithmetic.
-/

namespace Sys2Proof

/-- One byte of a stream or of IN_MEM and PB_MEM. -/
abbrev Byte := BitVec 8

/-- One register, and one word of IMG_MEM (00_scope.md R6: every register is 32 bits). -/
abbrev Word := BitVec 32

/-- A colour, red in bits 23:16, green in 15:8, blue in 7:0 (10_state.md R34). -/
abbrev Rgb := BitVec 24

/-- A byte string (00_scope.md R9). -/
abbrev Bytes := List Byte

/-- `ceil_div(a, b)` for b ≥ 1 (00_scope.md R8). -/
def ceilDivNat (a b : Nat) : Nat := (a + b - 1) / b

end Sys2Proof
end

