-- ==== Sys2Proof/Syntax.lean ====
section
/-!
DEFINITION. The instructions: one constructor per row of spec/opcode_table.json, and the contexts they are read in.
-/

namespace Sys2Proof

/-- An instruction of the engine or of its host. Operands are the fields the encoding of the row gives (30_encoding.md
R116); bits the spec says take part in no rule are no operands, but for the run commands' bits 5:4, which the spec's own
assembler can set (30_encoding.md R118, R126). -/
inductive Instr where
  /-- LIT, length N + 1 (41_g5.md R144). -/
  | lit (n : BitVec 7)
  /-- RUN.B, N + 1 black bytes; `ab` is `cmd[5:4]` (41_g5.md R142). -/
  | runB (ab : BitVec 2) (n : BitVec 4)
  /-- RUN.W, N + 1 white bytes; `ab` is `cmd[5:4]` (41_g5.md R143). -/
  | runW (ab : BitVec 2) (n : BitVec 4)
  /-- FRAME, declared payload length L (44_framer.md R242). -/
  | frame (len : Word)
  /-- PAY.ZLIB.7801 (42_resolver.md R172, R173). -/
  | payZlib7801
  /-- PAY.ZLIB.789C (42_resolver.md R172, R173). -/
  | payZlib789C
  /-- PAY.ZLIB.78DA (42_resolver.md R172, R173). -/
  | payZlib78DA
  /-- PAY.SHORT (42_resolver.md R174). -/
  | payShort
  /-- PAY.G5: start_row, row_count, format[7:1], flags (42_resolver.md R175; 30_encoding.md R102–R104). -/
  | payG5 (startRow rowCount : BitVec 16) (fmt : BitVec 7) (flags : BitVec 8)
  /-- PAY.RAW: the same fields (42_resolver.md R177). -/
  | payRaw (startRow rowCount : BitVec 16) (fmt : BitVec 7) (flags : BitVec 8)
  /-- DFL.STORED with BFINAL (43_inflate.md R196). -/
  | dflStored (final : Bool)
  /-- DFL.FIXED with BFINAL (43_inflate.md R198). -/
  | dflFixed (final : Bool)
  /-- DFL.DYNAMIC with BFINAL (43_inflate.md R200). -/
  | dflDynamic (final : Bool)
  /-- DFL.BTYPE3 with BFINAL (43_inflate.md R197). -/
  | dflBtype3 (final : Bool)
  /-- DFL.LIT, symbol 0..255 (43_inflate.md R207). -/
  | dflLit (sym : BitVec 8)
  /-- DFL.EOB, symbol 256 (43_inflate.md R208). -/
  | dflEob
  /-- DFL.LEN, symbol 257..285 (43_inflate.md R209). -/
  | dflLen (sym : BitVec 9)
  /-- DFL.LEN.RSV, symbol 286 or 287 (43_inflate.md R210). -/
  | dflLenRsv (sym : BitVec 9)
  /-- DFL.DIST, distance symbol 0..29 (43_inflate.md R211). -/
  | dflDist (sym : BitVec 5)
  /-- DFL.DIST.RSV, distance symbol 30 or 31 (43_inflate.md R212). -/
  | dflDistRsv (sym : BitVec 5)
  /-- DFL.CL.LEN, code-length symbol 0..15 (43_inflate.md R203). -/
  | dflClLen (sym : BitVec 4)
  /-- DFL.CL.REP16 (43_inflate.md R203). -/
  | dflClRep16
  /-- DFL.CL.REP17 (43_inflate.md R203). -/
  | dflClRep17
  /-- DFL.CL.REP18 (43_inflate.md R203). -/
  | dflClRep18
  /-- CTRL.SETOP, a CTRL write with bit 8 clear (47_host_operations.md R356). -/
  | ctrlSetop (op : BitVec 3)
  /-- START, a CTRL write with bit 8 set (47_host_operations.md R341). -/
  | start (op : BitVec 3)
  /-- NOP, operation 0 (47_host_operations.md R345). -/
  | nop
  /-- DECODE, operation 1 (47_host_operations.md R346). -/
  | decode
  /-- RENDER, operation 2 (47_host_operations.md R347). -/
  | render
  /-- DECODE_RENDER, operation 3 (47_host_operations.md R348). -/
  | decodeRender
  /-- G5, operation 4 (47_host_operations.md R349). -/
  | g5
  /-- OP.RSV5, reserved operation 5 (47_host_operations.md R352). -/
  | opRsv5
  /-- OP.RSV6, reserved operation 6 (47_host_operations.md R352). -/
  | opRsv6
  /-- OP.RSV7, reserved operation 7 (47_host_operations.md R352). -/
  | opRsv7
  /-- PLANE.READ under FMT.BPP 1 or 2 (46_unpack_render.md R292). -/
  | planeRead (bpp : BitVec 4)
  /-- INDEX.EXTRACT under FMT.BPP 3..8 (46_unpack_render.md R297). -/
  | indexExtract (bpp : BitVec 4)
  /-- ROT0, with the BPP field of the same FMT word (46_unpack_render.md R299). -/
  | rot0 (bpp : BitVec 4)
  /-- ROT1 (46_unpack_render.md R300). -/
  | rot1 (bpp : BitVec 4)
  /-- ROT2 (46_unpack_render.md R301). -/
  | rot2 (bpp : BitVec 4)
  /-- ROT3 (46_unpack_render.md R302). -/
  | rot3 (bpp : BitVec 4)
deriving DecidableEq, Repr

/-- What is being read when an instruction is decoded. The same bits mean different rows in different places of a stream or
a register (30_encoding.md R100), so decoding takes the context as an argument. -/
inductive Format where
  /-- F-G5CMD: one command byte. -/
  | g5Cmd
  /-- F-STREAM: a 4-byte little-endian length prefix. -/
  | stream
  /-- F-ZHDR and F-HDR: a whole payload, classified in the order of 30_encoding.md R121. -/
  | payload
  /-- F-DFLBLK: the three header bits of a deflate block, in bits 2:0 of a byte. -/
  | dflBlock
  /-- F-DFLSYM, literal/length alphabet: a symbol number, 2 bytes little-endian. -/
  | symLit
  /-- F-DFLSYM, distance alphabet. -/
  | symDist
  /-- F-DFLSYM, code-length alphabet. -/
  | symCl
  /-- F-REG CTRL: the 32-bit value of a host write to CTRL. -/
  | ctrlWrite
  /-- F-REG CTRL: the CTRL value that launched the operation to run (START bit set). -/
  | ctrlLaunch
  /-- F-REG FMT: the value of FMT while pixels are unpacked. -/
  | fmtPixel
  /-- F-REG FMT: the value of FMT when the work grid is rotated. -/
  | fmtRotate
deriving DecidableEq, Repr

/-- The context each instruction is read in (spec/opcode_table.json, "format"). -/
def formatOf : Instr → Format
  | .lit _ => .g5Cmd
  | .runB _ _ => .g5Cmd
  | .runW _ _ => .g5Cmd
  | .frame _ => .stream
  | .payZlib7801 => .payload
  | .payZlib789C => .payload
  | .payZlib78DA => .payload
  | .payShort => .payload
  | .payG5 _ _ _ _ => .payload
  | .payRaw _ _ _ _ => .payload
  | .dflStored _ => .dflBlock
  | .dflFixed _ => .dflBlock
  | .dflDynamic _ => .dflBlock
  | .dflBtype3 _ => .dflBlock
  | .dflLit _ => .symLit
  | .dflEob => .symLit
  | .dflLen _ => .symLit
  | .dflLenRsv _ => .symLit
  | .dflDist _ => .symDist
  | .dflDistRsv _ => .symDist
  | .dflClLen _ => .symCl
  | .dflClRep16 => .symCl
  | .dflClRep17 => .symCl
  | .dflClRep18 => .symCl
  | .ctrlSetop _ => .ctrlWrite
  | .start _ => .ctrlWrite
  | .nop => .ctrlLaunch
  | .decode => .ctrlLaunch
  | .render => .ctrlLaunch
  | .decodeRender => .ctrlLaunch
  | .g5 => .ctrlLaunch
  | .opRsv5 => .ctrlLaunch
  | .opRsv6 => .ctrlLaunch
  | .opRsv7 => .ctrlLaunch
  | .planeRead _ => .fmtPixel
  | .indexExtract _ => .fmtPixel
  | .rot0 _ => .fmtRotate
  | .rot1 _ => .fmtRotate
  | .rot2 _ => .fmtRotate
  | .rot3 _ => .fmtRotate

end Sys2Proof
end

