-- ==== Sys2Proof/WellFormed.lean ====
section
/-!
DEFINITION. Which terms of `Instr` stand for an encoding.
-/

namespace Sys2Proof

/-- A start_row whose two header bytes are a zlib magic: 0x0178, 0x9C78, 0xDA78. A raw or G5 payload with such a start row
is classed ZLIB (70_reset_and_hazards.md R408; 42_resolver.md R172). -/
def zlibStartRow (r : BitVec 16) : Bool := r == 0x0178 || r == 0x9C78 || r == 0xDA78

/-- The well-formed instructions: symbol numbers inside the row's range (spec/opcode_table.json; 43_inflate.md R206, R209–R212),
BPP inside the row's range (46_unpack_render.md R292, R297), and no header that is a zlib magic. -/
def Instr.wf : Instr → Bool
  | .lit _ => true
  | .runB _ _ => true
  | .runW _ _ => true
  | .frame _ => true
  | .payZlib7801 => true
  | .payZlib789C => true
  | .payZlib78DA => true
  | .payShort => true
  | .payG5 r _ _ _ => !zlibStartRow r
  | .payRaw r _ _ _ => !zlibStartRow r
  | .dflStored _ => true
  | .dflFixed _ => true
  | .dflDynamic _ => true
  | .dflBtype3 _ => true
  | .dflLit _ => true
  | .dflEob => true
  | .dflLen s => decide (257 ≤ s.toNat ∧ s.toNat ≤ 285)
  | .dflLenRsv s => decide (286 ≤ s.toNat ∧ s.toNat ≤ 287)
  | .dflDist s => decide (s.toNat ≤ 29)
  | .dflDistRsv s => decide (30 ≤ s.toNat)
  | .dflClLen _ => true
  | .dflClRep16 => true
  | .dflClRep17 => true
  | .dflClRep18 => true
  | .ctrlSetop _ => true
  | .start _ => true
  | .nop => true
  | .decode => true
  | .render => true
  | .decodeRender => true
  | .g5 => true
  | .opRsv5 => true
  | .opRsv6 => true
  | .opRsv7 => true
  | .planeRead b => decide (1 ≤ b.toNat ∧ b.toNat ≤ 2)
  | .indexExtract b => decide (3 ≤ b.toNat ∧ b.toNat ≤ 8)
  | .rot0 _ => true
  | .rot1 _ => true
  | .rot2 _ => true
  | .rot3 _ => true

end Sys2Proof
end

