-- ==== Sys2Proof/Decode.lean ====
section
/-!
DEFINITION. Byte strings and their little-endian fields (00_scope.md R9, R10; 20_memory.md R72), the decoder of every format,
total and rejecting by name, and after it the encoder.
-/

namespace Sys2Proof

/-! ## Byte strings -/

/-- The clamping slice `s[a:b]` (00_scope.md R9). -/
def slice (s : Bytes) (a b : Nat) : Bytes := (s.take b).drop a

/-- Byte `i` of a string; past the end it is 0, which no rule reads. -/
def byteAt (s : Bytes) (i : Nat) : Byte := s.getD i 0

/-- `u16le(s, i)` (00_scope.md R10). -/
def u16le (s : Bytes) (i : Nat) : BitVec 16 := byteAt s (i + 1) ++ byteAt s i

/-- `u32le(s, i)` (00_scope.md R10). -/
def u32le (s : Bytes) (i : Nat) : Word :=
  byteAt s (i + 3) ++ (byteAt s (i + 2) ++ (byteAt s (i + 1) ++ byteAt s i))

/-- `u32be(s, i)` (00_scope.md R10). -/
def u32be (s : Bytes) (i : Nat) : Word :=
  byteAt s i ++ (byteAt s (i + 1) ++ (byteAt s (i + 2) ++ byteAt s (i + 3)))

/-- The two bytes of a 16-bit value, little-endian (30_encoding.md R124). -/
def bytes16le (v : BitVec 16) : Bytes := [v.extractLsb' 0 8, v.extractLsb' 8 8]

/-- The four bytes of a 32-bit value, little-endian (30_encoding.md R124). -/
def bytes32le (v : Word) : Bytes :=
  [v.extractLsb' 0 8, v.extractLsb' 8 8, v.extractLsb' 16 8, v.extractLsb' 24 8]

/-- The four bytes of a 32-bit value, big-endian (43_inflate.md R215; 30_encoding.md R125). -/
def bytes32be (v : Word) : Bytes :=
  [v.extractLsb' 24 8, v.extractLsb' 16 8, v.extractLsb' 8 8, v.extractLsb' 0 8]

/-! ## The decoder -/

/-- Why bytes are no instruction of a format. -/
inductive DecodeError where
  /-- Fewer bytes than the format has. -/
  | tooShort
  /-- A literal/length symbol above 287, a distance symbol above 31 or a code-length symbol above 18. -/
  | noSuchSymbol
  /-- The value launched no operation: bit 8 of CTRL is clear. -/
  | notLaunched
  /-- FMT.BPP is 0 or 9..15 (10_state.md R27). -/
  | reservedBpp
deriving DecidableEq, Repr

/-- The G5 command byte (30_encoding.md R107–R109, R117); every value is a command (R119). -/
def decodeG5 (c : Byte) : Instr :=
  if c.getLsbD 7 then
    if c.getLsbD 6 then .runW (c.extractLsb' 4 2) (c.extractLsb' 0 4)
    else .runB (c.extractLsb' 4 2) (c.extractLsb' 0 4)
  else .lit (c.extractLsb' 0 7)

/-- The zlib magic test on the first two bytes (30_encoding.md R106; 42_resolver.md R172). -/
def zlibMagic (p : Bytes) (flg : Byte) : Bool :=
  decide (2 ≤ p.length) && byteAt p 0 == 0x78 && byteAt p 1 == flg

/-- The payload class map, tested in the order of 30_encoding.md R121 and 42_resolver.md R171; every payload has a class. -/
def decodePayload (p : Bytes) : Instr :=
  if zlibMagic p 0x01 then .payZlib7801
  else if zlibMagic p 0x9C then .payZlib789C
  else if zlibMagic p 0xDA then .payZlib78DA
  else if p.length < 6 then .payShort
  else if (byteAt p 4).getLsbD 0 then
    .payG5 (u16le p 0) (u16le p 2) ((byteAt p 4).extractLsb' 1 7) (byteAt p 5)
  else .payRaw (u16le p 0) (u16le p 2) ((byteAt p 4).extractLsb' 1 7) (byteAt p 5)

/-- The three bits of a deflate block header: BFINAL, then BTYPE (30_encoding.md R111). -/
def decodeDflBlock (v : BitVec 3) : Instr :=
  let final := v.getLsbD 0
  if v.getLsbD 2 then (if v.getLsbD 1 then .dflBtype3 final else .dflDynamic final)
  else (if v.getLsbD 1 then .dflFixed final else .dflStored final)

/-- A literal/length symbol (43_inflate.md R206). -/
def decodeLitSym (s : Nat) : Except DecodeError Instr :=
  if s ≤ 255 then .ok (.dflLit (BitVec.ofNat 8 s))
  else if s = 256 then .ok .dflEob
  else if s ≤ 285 then .ok (.dflLen (BitVec.ofNat 9 s))
  else if s ≤ 287 then .ok (.dflLenRsv (BitVec.ofNat 9 s))
  else .error .noSuchSymbol

/-- A distance symbol (43_inflate.md R211, R212). -/
def decodeDistSym (s : Nat) : Except DecodeError Instr :=
  if s ≤ 29 then .ok (.dflDist (BitVec.ofNat 5 s))
  else if s ≤ 31 then .ok (.dflDistRsv (BitVec.ofNat 5 s))
  else .error .noSuchSymbol

/-- A code-length symbol (43_inflate.md R203). -/
def decodeClSym (s : Nat) : Except DecodeError Instr :=
  if s ≤ 15 then .ok (.dflClLen (BitVec.ofNat 4 s))
  else if s = 16 then .ok .dflClRep16
  else if s = 17 then .ok .dflClRep17
  else if s = 18 then .ok .dflClRep18
  else .error .noSuchSymbol

/-- A value the host writes to CTRL: bit 8 is START, bits 2:0 OP, the rest ignored (10_state.md R24). -/
def decodeCtrlWrite (v : Word) : Instr :=
  if v.getLsbD 8 then .start (v.extractLsb' 0 3) else .ctrlSetop (v.extractLsb' 0 3)

/-- The operation an OP code names (30_encoding.md R123). -/
def decodeOp (op : BitVec 3) : Instr :=
  match op.toNat with
  | 0 => .nop
  | 1 => .decode
  | 2 => .render
  | 3 => .decodeRender
  | 4 => .g5
  | 5 => .opRsv5
  | 6 => .opRsv6
  | _ => .opRsv7

/-- The pixel path FMT.BPP selects (46_unpack_render.md R290). -/
def decodePixel (bpp : BitVec 4) : Except DecodeError Instr :=
  if 1 ≤ bpp.toNat ∧ bpp.toNat ≤ 2 then .ok (.planeRead bpp)
  else if 3 ≤ bpp.toNat ∧ bpp.toNat ≤ 8 then .ok (.indexExtract bpp)
  else .error .reservedBpp

/-- The rotation FMT.ROT selects (10_state.md R27). -/
def decodeRotate (rot : BitVec 2) (bpp : BitVec 4) : Instr :=
  match rot.toNat with
  | 0 => .rot0 bpp
  | 1 => .rot1 bpp
  | 2 => .rot2 bpp
  | _ => .rot3 bpp

/-- The decoder: the instruction the bytes hold in the given context. The bytes after those the format reads (a literal's
bytes, a payload behind its length) are no part of the instruction. -/
def decode (f : Format) (b : Bytes) : Except DecodeError Instr :=
  match f with
  | .g5Cmd => if b.length < 1 then .error .tooShort else .ok (decodeG5 (byteAt b 0))
  | .stream => if b.length < 4 then .error .tooShort else .ok (.frame (u32le b 0))
  | .payload => .ok (decodePayload b)
  | .dflBlock => if b.length < 1 then .error .tooShort else .ok (decodeDflBlock ((byteAt b 0).extractLsb' 0 3))
  | .symLit => if b.length < 2 then .error .tooShort else decodeLitSym (u16le b 0).toNat
  | .symDist => if b.length < 2 then .error .tooShort else decodeDistSym (u16le b 0).toNat
  | .symCl => if b.length < 2 then .error .tooShort else decodeClSym (u16le b 0).toNat
  | .ctrlWrite => if b.length < 4 then .error .tooShort else .ok (decodeCtrlWrite (u32le b 0))
  | .ctrlLaunch =>
    if b.length < 4 then .error .tooShort
    else if (u32le b 0).getLsbD 8 then .ok (decodeOp ((u32le b 0).extractLsb' 0 3)) else .error .notLaunched
  | .fmtPixel => if b.length < 4 then .error .tooShort else decodePixel ((u32le b 0).extractLsb' 0 4)
  | .fmtRotate =>
    if b.length < 4 then .error .tooShort
    else .ok (decodeRotate ((u32le b 0).extractLsb' 8 2) ((u32le b 0).extractLsb' 0 4))

/-! ## The encoder -/

/-- The 6-byte block header (30_encoding.md R102, R103; R124 `hdr`). -/
def headerBytes (startRow rowCount : BitVec 16) (format flags : Byte) : Bytes :=
  bytes16le startRow ++ bytes16le rowCount ++ [format, flags]

/-- The 3-bit header of a deflate block in a byte: BTYPE above BFINAL (30_encoding.md R111). -/
def dflBlockByte (btype : BitVec 2) (final : Bool) : Byte := 0#5 ++ (btype ++ BitVec.ofBool final)

/-- A symbol number as two bytes. -/
def symbolBytes (s : Nat) : Bytes := bytes16le (BitVec.ofNat 16 s)

/-- A CTRL value: START in bit 8, OP in bits 2:0, reserved bits 0 (10_state.md R24). -/
def ctrlWord (start : Bool) (op : BitVec 3) : Word := 0#23 ++ (BitVec.ofBool start ++ (0#5 ++ op))

/-- A FMT value: ROT in bits 9:8, BPP in bits 3:0, reserved bits 0 (10_state.md R27). -/
def fmtWord (rot : BitVec 2) (bpp : BitVec 4) : Word := 0#22 ++ (rot ++ (0#4 ++ bpp))

/-- The bytes of an instruction in its format, ignored bits 0. -/
def encode : Instr → Bytes
  | .lit n => [0#1 ++ n]
  | .runB ab n => [2#2 ++ (ab ++ n)]
  | .runW ab n => [3#2 ++ (ab ++ n)]
  | .frame l => bytes32le l
  | .payZlib7801 => [0x78, 0x01]
  | .payZlib789C => [0x78, 0x9C]
  | .payZlib78DA => [0x78, 0xDA]
  | .payShort => []
  | .payG5 r c f g => headerBytes r c (f ++ 1#1) g
  | .payRaw r c f g => headerBytes r c (f ++ 0#1) g
  | .dflStored f => [dflBlockByte 0 f]
  | .dflFixed f => [dflBlockByte 1 f]
  | .dflDynamic f => [dflBlockByte 2 f]
  | .dflBtype3 f => [dflBlockByte 3 f]
  | .dflLit s => symbolBytes s.toNat
  | .dflEob => symbolBytes 256
  | .dflLen s => symbolBytes s.toNat
  | .dflLenRsv s => symbolBytes s.toNat
  | .dflDist s => symbolBytes s.toNat
  | .dflDistRsv s => symbolBytes s.toNat
  | .dflClLen s => symbolBytes s.toNat
  | .dflClRep16 => symbolBytes 16
  | .dflClRep17 => symbolBytes 17
  | .dflClRep18 => symbolBytes 18
  | .ctrlSetop op => bytes32le (ctrlWord false op)
  | .start op => bytes32le (ctrlWord true op)
  | .nop => bytes32le (ctrlWord true 0)
  | .decode => bytes32le (ctrlWord true 1)
  | .render => bytes32le (ctrlWord true 2)
  | .decodeRender => bytes32le (ctrlWord true 3)
  | .g5 => bytes32le (ctrlWord true 4)
  | .opRsv5 => bytes32le (ctrlWord true 5)
  | .opRsv6 => bytes32le (ctrlWord true 6)
  | .opRsv7 => bytes32le (ctrlWord true 7)
  | .planeRead b => bytes32le (fmtWord 0 b)
  | .indexExtract b => bytes32le (fmtWord 0 b)
  | .rot0 b => bytes32le (fmtWord 0 b)
  | .rot1 b => bytes32le (fmtWord 1 b)
  | .rot2 b => bytes32le (fmtWord 2 b)
  | .rot3 b => bytes32le (fmtWord 3 b)

/-! ## Words of the opcode table -/

/-- The context a 32-bit table word is read in. Four rows share the width and overlap, so the lowest bit position a row uses
beyond the others decides (assumption 11): a bit above 9 makes it a length prefix, bit 9 a rotation code, bit 8 the
operation a CTRL value launched, none of them a CTRL write. -/
def tableFormat32 (w : Nat) : Format :=
  if w / 1024 ≠ 0 then .stream
  else if w.testBit 9 then .fmtRotate
  else if w.testBit 8 then .ctrlLaunch
  else .ctrlWrite

/-- The context a table row of this many bits is read in, where the bits alone do not say it (assumption 11): 8 bits are a
G5 command byte, 16 or 48 or 0 a payload, 3 a deflate block header, 4 the BPP field of FMT. -/
def tableFormat (nbits w : Nat) : Option Format :=
  match nbits with
  | 0 => some .payload
  | 3 => some .dflBlock
  | 4 => some .fmtPixel
  | 8 => some .g5Cmd
  | 16 => some .payload
  | 32 => some (tableFormat32 w)
  | 48 => some .payload
  | _ => none

/-- The bytes of a table word as they lie in the stream or register. The table puts payload byte 0 in the LEFTMOST 8 bits
of its 16-bit and 48-bit rows (spec/opcode_table.json, notes of PAY.ZLIB.7801 and PAY.G5); registers are little-endian. -/
def tableBytes (nbits w : Nat) : Bytes :=
  match nbits with
  | 3 => [BitVec.ofNat 8 (w % 8)]
  | 4 => bytes32le (BitVec.ofNat 32 (w % 16))
  | 8 => [BitVec.ofNat 8 w]
  | 16 => [BitVec.ofNat 8 (w >>> 8), BitVec.ofNat 8 w]
  | 32 => bytes32le (BitVec.ofNat 32 w)
  | 48 => [BitVec.ofNat 8 (w >>> 40), BitVec.ofNat 8 (w >>> 32), BitVec.ofNat 8 (w >>> 24),
      BitVec.ofNat 8 (w >>> 16), BitVec.ofNat 8 (w >>> 8), BitVec.ofNat 8 w]
  | _ => []

/-- The instruction the decoder reads from a word of the opcode table. -/
def decodeTableWord (nbits w : Nat) : Option Instr :=
  match tableFormat nbits w with
  | none => none
  | some f =>
    match decode f (tableBytes nbits w) with
    | .ok i => some i
    | .error _ => none

end Sys2Proof
end

