-- ==== Sys2Proof/Config.lean ====
section
/-!
DEFINITION. What an implementation fixes (00_scope.md R6), the register offsets (10_state.md R22) and the values the
spec leaves free.
-/

namespace Sys2Proof

/-- The OPEN parameters IN_CAP, PB_CAP (bytes) and IMG_CAP (words) (00_scope.md R6). They are "arguments of the model":
`State` carries them in a field that no step writes (assumption 4). -/
structure Caps where
  inCap  : Nat
  pbCap  : Nat
  imgCap : Nat
deriving DecidableEq, Repr

/-- The admitted capacities: 1 ≤ IN_CAP ≤ 2^32 − 1, PB_CAP ≥ 1, IMG_CAP ≥ 1 (00_scope.md R6). -/
abbrev Caps.wf (c : Caps) : Prop :=
  1 ≤ c.inCap ∧ c.inCap ≤ 2 ^ 32 - 1 ∧ 1 ≤ c.pbCap ∧ 1 ≤ c.imgCap

namespace Config

/-- DESIGN CHOICE (assumption 4): the capacities `State.reset` carries. 2^32 − 1 is the largest IN_CAP the spec admits and
is large enough in PB and IMG for every legal configuration. -/
def resetCaps : Caps := { inCap := 2 ^ 32 - 1, pbCap := 2 ^ 32 - 1, imgCap := 2 ^ 32 - 1 }

/-- CT_MAX, colour-table entries (00_scope.md R6). -/
def ctMax : Nat := 256

/-- BPP_MIN (00_scope.md R6). -/
def bppMin : Nat := 1

/-- BPP_MAX (00_scope.md R6). -/
def bppMax : Nat := 8

/-- The bytes of the REG space (10_state.md R22). -/
def regSpace : Nat := 0x500

/-- The offset of CT[0] (10_state.md R22). -/
def ctBase : Nat := 0x100

/-- DESIGN CHOICE (assumption 5): what a byte of IN_MEM or PB_MEM reads as when nothing has written it; the spec's reset
contents are "any value" (70_reset_and_hazards.md R400). -/
def unlistedByte : Byte := 0

/-- DESIGN CHOICE (assumption 5): the same for a word of IMG_MEM. -/
def unlistedWord : Word := 0

/-- The reset value of a colour-table entry, TAG OTHER and RGB 0x000000 (10_state.md R34). -/
def unlistedEntry : BitVec 26 := 0

/-- The initial fill of the work grid, white (46_unpack_render.md R291). -/
def white : Rgb := 0xFFFFFF

/-- FREE VALUE (assumption 7): what a host read of a register other than STATUS, or of IMG, returns while BUSY
(70_reset_and_hazards.md R404, "any value"), by the number of the draw. -/
opaque busyWord : Nat → Word

/-- FREE VALUE (assumption 7): what a host read of PB returns while BUSY (70_reset_and_hazards.md R404). -/
opaque busyByte : Nat → Byte

end Config

end Sys2Proof
end

