-- ==== Sys2Proof/Machine/State.lean ====
section
/-!
DEFINITION. The state of the machine (10_state.md), as plain data, what stops it, and the state after reset.
-/

namespace Sys2Proof.Machine

/-- A memory: (address, value) pairs, addresses strictly rising, no entry equal to what an unlisted address reads as
(`Memory.wf` in Ops.lean). -/
abbrev Memory (w : Nat) := List (Nat × BitVec w)

/-! ## Registers -/

/-- The registers the host writes, field by field (10_state.md R24–R29, R31). Reserved bits are not held: they read 0
(10_state.md R35). -/
structure Regs where
  /-- CTRL.OP -/
  op      : BitVec 3
  /-- WIDTH.W -/
  width   : BitVec 16
  /-- HEIGHT.H -/
  height  : BitVec 16
  /-- FMT.BPP -/
  bpp     : BitVec 4
  /-- FMT.ROT -/
  rot     : BitVec 2
  /-- IN_LEN -/
  inLen   : Word
  /-- EXPLEN -/
  expLen  : Word
  /-- CT_COUNT.N -/
  ctCount : BitVec 9
deriving DecidableEq, Repr

/-- The diagnostic counters (10_state.md R30). -/
structure Counters where
  /-- CNT_BLK.BLOCKS -/
  blocks  : BitVec 16
  /-- CNT_BLK.APPLIED -/
  applied : BitVec 16
  /-- CNT_CODEC0.RAW -/
  raw     : BitVec 16
  /-- CNT_CODEC0.ZLIB -/
  zlib    : BitVec 16
  /-- CNT_CODEC1.G5 -/
  g5      : BitVec 16
  /-- CNT_CODEC1.SKIPPED -/
  skipped : BitVec 16
  /-- CNT_ZFAIL.ZFAIL -/
  zfail   : BitVec 16
deriving DecidableEq, Repr

/-! ## Hidden state of the units -/

/-- The bit reader over a payload (43_inflate.md R193). -/
structure BitReader where
  src : Bytes
  /-- byte index -/
  q   : Nat
  /-- bit index, 0..7 -/
  t   : Nat
deriving DecidableEq, Repr

/-- One assignment of a code to a symbol (43_inflate.md R195). -/
structure CodeEntry where
  len  : Nat
  code : Nat
  sym  : Nat
deriving DecidableEq, Repr

/-- A Huffman code: its assignments. The empty list is the empty code of 43_inflate.md R195. -/
abbrev HuffCode := List CodeEntry

/-- The running Adler-32 sums (43_inflate.md R216; 10_state.md R47). -/
structure AdlerSums where
  s1 : Nat
  s2 : Nat
deriving DecidableEq, Repr

/-- Where in the deflate format the decoder stands (43_inflate.md R191). -/
inductive InflateMode where
  /-- before a block header -/
  | header
  /-- reading the `nlit + ndist` code lengths of a dynamic block with the code-length code (R203) -/
  | lengths (nlit ndist : Nat) (clt : HuffCode) (lens : List Nat)
  /-- before a literal/length symbol (R206) -/
  | body (lit dist : HuffCode)
  /-- after a length symbol: its distance symbol is next (R209, R211) -/
  | distance (lit dist : HuffCode) (len : Nat)
  /-- after the final block (R215) -/
  | trailer
deriving DecidableEq, Repr

/-- The inflate state of one payload (10_state.md R47). -/
structure Inflate where
  br    : BitReader
  /-- the bytes produced so far -/
  out   : Bytes
  adler : AdlerSums
  /-- BFINAL of the current block -/
  final : Bool
  mode  : InflateMode
deriving DecidableEq, Repr

/-- A running G5 decode (41_g5.md R140). -/
structure G5Run where
  src  : Bytes
  exp  : Nat
  gpos : Nat
  out  : Bytes
deriving DecidableEq, Repr

/-- Who asked for a G5 decode. -/
inductive G5Job where
  /-- the G5 operation (47_host_operations.md R349) -/
  | standalone
  /-- a G5 block, framed up to `fpos`, with its 6 header bytes (42_resolver.md R175) -/
  | block (fpos : Nat) (header : Bytes)
deriving DecidableEq, Repr

/-- The engine's phase and, while BUSY, what its working unit holds. IDLE has no hidden state (70_reset_and_hazards.md R400);
each cursor starts at 0 when its loop starts (10_state.md R21). -/
inductive Engine where
  /-- IDLE (10_state.md R45) -/
  | idle
  /-- BUSY, between the start sequence and the operation's own transition (47_host_operations.md R341) -/
  | launched
  /-- the framer, at FPOS (44_framer.md R241) -/
  | framing (fpos : Nat)
  /-- the resolver, with the payload just framed; FPOS is already behind it (42_resolver.md R170) -/
  | resolving (fpos : Nat) (payload : Bytes)
  /-- the G5 decoder (41_g5.md R141) -/
  | g5 (job : G5Job) (run : G5Run)
  /-- the deflate decoder (43_inflate.md R191) -/
  | inflating (fpos : Nat) (z : Inflate)
  /-- the block buffer between resolver and assembler (10_state.md R46; 44_framer.md R244) -/
  | dispatching (fpos : Nat) (block : Bytes)
  /-- the unpacker at pixel (x, y), with the work grid (10_state.md R43; 46_unpack_render.md R290) -/
  | drawing (x y : Nat) (work : Memory 24)
  /-- the rotation engine, with the finished work grid (46_unpack_render.md R299–R302) -/
  | rotating (work : Memory 24)
deriving DecidableEq, Repr

/-! ## The host's side -/

/-- A register of the map of 10_state.md R22. -/
inductive RegName where
  | ctrl
  | status
  | width
  | height
  | fmt
  | inLen
  | expLen
  | ctCount
  | cntBlk
  | cntCodec0
  | cntCodec1
  | cntZfail
  | g5Out
  | g5In
  | planeState
  /-- CT[i] -/
  | ct (i : Nat)
  /-- a reserved offset, 0x03C–0x0FC -/
  | reserved
deriving DecidableEq, Repr

/-- What the host can do (47_host_operations.md R340; 30_encoding.md R128; 70_reset_and_hazards.md R400). -/
inductive HostAction where
  /-- a register read of `width` bits at byte offset `off` (20_memory.md R74) -/
  | regRead (width off : Nat)
  /-- a register write -/
  | regWrite (width off : Nat) (v : Word)
  /-- a byte read of IN_MEM (20_memory.md R75) -/
  | inRead (a : Nat)
  /-- a byte write of IN_MEM -/
  | inWrite (a : Nat) (v : Byte)
  /-- a byte read of PB_MEM -/
  | pbRead (a : Nat)
  /-- a byte write of PB_MEM -/
  | pbWrite (a : Nat) (v : Byte)
  /-- a word read of IMG_MEM -/
  | imgRead (a : Nat)
  /-- a word write of IMG_MEM, which has no meaning (20_memory.md R75) -/
  | imgWrite (a : Nat) (v : Word)
  /-- `poll`: read STATUS until BUSY reads 0 (30_encoding.md R128) -/
  | poll
  /-- the reset input; the memories' contents afterwards are any value, so the input carries them (assumption 6) -/
  | reset (inMem pbMem : List Host.Cell) (imgMem : Memory 32)
deriving DecidableEq, Repr

/-- A host action to come, and how many engine steps it lets pass first while the engine is BUSY (assumption 2). -/
structure HostInput where
  wait   : Nat
  action : HostAction
deriving DecidableEq, Repr

/-- The value a host read returned. -/
inductive HostResponse where
  | word (v : Word)
  | byte (v : Byte)
deriving DecidableEq, Repr

/-! ## The state -/

/-- Everything the spec gives the machine, and the model's own last three fields. -/
structure State where
  /-- IN_CAP, PB_CAP, IMG_CAP (00_scope.md R6); no step writes them -/
  caps      : Caps
  /-- the host-written registers -/
  regs      : Regs
  /-- CT[0..255]: TAG in bits 25:24, RGB in bits 23:0 (10_state.md R34) -/
  ct        : Memory 26
  /-- STATUS (10_state.md R23) -/
  status    : Word
  /-- CNT_* (10_state.md R30) -/
  cnt       : Counters
  /-- G5_OUT (10_state.md R32) -/
  g5Out     : Word
  /-- G5_IN (10_state.md R32) -/
  g5In      : Word
  /-- PLANE_STATE.NEXT_PLANE (10_state.md R33) -/
  nextPlane : BitVec 1
  /-- IN_MEM (10_state.md R41) -/
  inMem     : List Host.Cell
  /-- PB_MEM (10_state.md R42) -/
  pbMem     : List Host.Cell
  /-- IMG_MEM (10_state.md R44) -/
  imgMem    : Memory 32
  /-- the phase (10_state.md R45) and the hidden state (R21, R43, R46, R47) -/
  engine    : Engine
  /-- MODEL: the host's actions to come (assumption 2) -/
  inputs    : List HostInput
  /-- MODEL: the values host reads returned, oldest first (assumption 3) -/
  responses : List HostResponse
  /-- MODEL: free values drawn so far (assumption 7) -/
  freeIx    : Nat
deriving DecidableEq, Repr

/-! ## What stops the machine -/

/-- Stops of the engine. The spec gives it none (60_exceptions.md R370); both are unreachable from a state that satisfies
the invariant of Safety.lean. -/
inductive Fault where
  /-- An engine access outside IN, PB or IMG, which 20_memory.md R71 and R76 exclude. Raised by FRAME, the G5 operation, the
  end of a standalone G5 decode, the assembler, PLANE.READ, INDEX.EXTRACT and the rotations. Safe (assumption 10). -/
  | memoryRange
  /-- Pixels are to be drawn with FMT.BPP outside 1..8, which the configuration check excludes (47_host_operations.md R343).
  Raised by the unpacker where no instruction can be decoded. Safe (assumption 10). -/
  | formatRange
deriving DecidableEq, Repr

/-- Host actions and instructions that have no meaning. -/
inductive Refusal where
  /-- An instruction without a meaning yet, by its mnemonic. Raised by `exec` alone; safe. -/
  | notModelled (mnemonic : String)
  /-- `REG_ACCESS`: a register access not aligned, not 32 bits wide, or at or above 0x500 (20_memory.md R74). Raised by host
  register accesses; the spec's own refusal, safe. -/
  | regAccess
  /-- `MEM_ACCESS`: an IN, PB or IMG address at or above the capacity, or a host write to IMG (20_memory.md R75). Raised by
  host memory accesses; the spec's own refusal, safe. -/
  | memAccess
  /-- `WRITE_BUSY`: a host write while BUSY (70_reset_and_hazards.md R403). Raised by host writes and CTRL.SETOP; the spec's
  own refusal, safe. -/
  | writeBusy
  /-- `START_BUSY`: START while BUSY (70_reset_and_hazards.md R405). Raised by START; the spec's own refusal, safe. -/
  | startBusy
  /-- An instruction executed where the unit that reads it is not at work: a G5 command outside a G5 decode, an operation
  that was not launched. `step` never does this; raised by the meanings themselves, safe (assumption 9). -/
  | outOfContext
deriving DecidableEq, Repr

/-- The outcome of a step of this machine. -/
abbrev Result := Host.Outcome State Fault Refusal

/-! ## Reset -/

/-- The registers after reset (70_reset_and_hazards.md R400). -/
def Regs.reset : Regs :=
  { op := 0, width := 0, height := 0, bpp := 0, rot := 0, inLen := 0, expLen := 0, ctCount := 0 }

/-- The counters after reset and after every START (70_reset_and_hazards.md R400; 47_host_operations.md R342). -/
def Counters.zero : Counters :=
  { blocks := 0, applied := 0, raw := 0, zlib := 0, g5 := 0, skipped := 0, zfail := 0 }

/-- The machine right after reset (70_reset_and_hazards.md R400). The memories' contents are not given by the spec
(assumption 5), nor are the capacities (assumption 4); the last three fields are the model's. -/
def State.reset : State :=
  { caps := Config.resetCaps
    regs := Regs.reset
    ct := []
    status := 0
    cnt := Counters.zero
    g5Out := 0
    g5In := 0
    nextPlane := 0
    inMem := []
    pbMem := []
    imgMem := []
    engine := .idle
    inputs := []
    responses := []
    freeIx := 0 }

end Sys2Proof.Machine
end

