-- ==== Sys2Proof/Machine/Flags.lean ====
section
/-!
DEFINITION. Flags: the STATUS events (60_exceptions.md R371) and the diagnostic counters (10_state.md R30). The engine has no
arithmetic flags (10_state.md R36).
-/

namespace Sys2Proof.Machine

/-! ## Events -/

/-- An event (60_exceptions.md R371). G5FB is named there and never raised (41_g5.md R151). -/
inductive Event where
  | cfgErr
  | trunc
  | tail
  | short
  | hclamp
  | dclamp
  | zfail
  | g5fb
  | g5short
  | idxoor
  | keymiss
deriving DecidableEq, Repr

/-- An event's code, which is its STATUS bit (60_exceptions.md R371; 10_state.md R23). -/
def Event.code : Event → Nat
  | .cfgErr => 2
  | .trunc => 3
  | .tail => 4
  | .short => 5
  | .hclamp => 6
  | .dclamp => 7
  | .zfail => 8
  | .g5fb => 9
  | .g5short => 10
  | .idxoor => 11
  | .keymiss => 12

/-- STATUS.BUSY (10_state.md R23). -/
def busyBit : Word := 1

/-- STATUS.DONE (10_state.md R23). -/
def doneBit : Word := 2

/-- The STATUS bits that always read 0: 31:13, reserved, and 9, G5FB (10_state.md R23). -/
def statusReserved : Word := 0xFFFFE200

/-- `raise Event(X)`: sets the sticky bit and does nothing else (00_scope.md R11). -/
def State.raise (e : Event) (s : State) : State :=
  { s with status := s.status ||| (1#32 <<< e.code) }

/-- Raise an event where a condition holds. -/
def State.raiseIf (c : Bool) (e : Event) (s : State) : State := if c then s.raise e else s

/-! ## Counters -/

/-- Count up by 1 and stay at 0xFFFF (10_state.md R30). -/
def satInc (c : BitVec 16) : BitVec 16 := if c = 0xFFFF then c else c + 1

/-- CNT_BLK.BLOCKS += 1. -/
def Counters.incBlocks (c : Counters) : Counters := { c with blocks := satInc c.blocks }

/-- CNT_BLK.APPLIED += 1. -/
def Counters.incApplied (c : Counters) : Counters := { c with applied := satInc c.applied }

/-- CNT_CODEC0.RAW += 1. -/
def Counters.incRaw (c : Counters) : Counters := { c with raw := satInc c.raw }

/-- CNT_CODEC0.ZLIB += 1. -/
def Counters.incZlib (c : Counters) : Counters := { c with zlib := satInc c.zlib }

/-- CNT_CODEC1.G5 += 1. -/
def Counters.incG5 (c : Counters) : Counters := { c with g5 := satInc c.g5 }

/-- CNT_CODEC1.SKIPPED += 1. -/
def Counters.incSkipped (c : Counters) : Counters := { c with skipped := satInc c.skipped }

/-- CNT_ZFAIL.ZFAIL += 1. -/
def Counters.incZfail (c : Counters) : Counters := { c with zfail := satInc c.zfail }

/-- Change the counters. -/
def State.count (f : Counters → Counters) (s : State) : State := { s with cnt := f s.cnt }

end Sys2Proof.Machine
end

