-- ==== Sys2Proof/Machine/Ops.lean ====
section
/-!
DEFINITION. The named operations over memory and registers: the canonical memories, the four address spaces (20_memory.md
R70), the register map (10_state.md R22), the start sequence, completion and the configuration error (47_host_operations.md
R342, R344, R350).

The engine takes no exceptions (60_exceptions.md R370, R375): what stands in their place is `State.raise` (Flags.lean), which
records a recovery, and `State.cfgError`, the one outcome of an operation other than normal completion.
-/

namespace Sys2Proof.Machine

/-! ## Canonical memories -/

/-- The canonical form: addresses strictly rising, no entry equal to what an unlisted address reads as. -/
abbrev Memory.wf {w : Nat} (d : BitVec w) (m : Memory w) : Prop :=
  m.Pairwise (fun p q => p.1 < q.1) ∧ ∀ c ∈ m, c.2 ≠ d

/-- Every listed address is below a bound. -/
abbrev Memory.below {w : Nat} (m : Memory w) (n : Nat) : Prop := ∀ c ∈ m, c.1 < n

/-- Read one unit; an unlisted address reads as `d`. -/
def Memory.read {w : Nat} (d : BitVec w) : Memory w → Nat → BitVec w
  | [], _ => d
  | (k, v) :: m, a => if k = a then v else Memory.read d m a

/-- The entries that hold `vs` from address `a` on. -/
def Memory.cells {w : Nat} (d : BitVec w) : Nat → List (BitVec w) → Memory w
  | _, [] => []
  | a, v :: vs => if v = d then Memory.cells d (a + 1) vs else (a, v) :: Memory.cells d (a + 1) vs

/-- `MemWrite`: write the units `vs` from address `a` on (00_scope.md R10). -/
def Memory.write {w : Nat} (d : BitVec w) (m : Memory w) (a : Nat) (vs : List (BitVec w)) : Memory w :=
  m.filter (fun c => decide (c.1 < a)) ++ Memory.cells d a vs ++ m.filter (fun c => decide (a + vs.length ≤ c.1))

/-- `MemWrite` of `n` units of the value an unlisted address reads as. -/
def Memory.clear {w : Nat} (m : Memory w) (a n : Nat) : Memory w :=
  m.filter (fun c => decide (c.1 < a ∨ a + n ≤ c.1))

/-- The memory that holds the given entries, the last one of an address winning, inside `n` units. -/
def Memory.ofCells {w : Nat} (d : BitVec w) (n : Nat) : List (Nat × BitVec w) → Memory w → Memory w
  | [], m => m
  | (k, v) :: cs, m => Memory.ofCells d n cs (if k < n then Memory.write d m k [v] else m)

/-! ## The address spaces -/

/-- One byte of IN_MEM. -/
def State.inByte (s : State) (a : Nat) : Byte := Memory.read Config.unlistedByte s.inMem a

/-- One byte of PB_MEM. -/
def State.pbByte (s : State) (a : Nat) : Byte := Memory.read Config.unlistedByte s.pbMem a

/-- One word of IMG_MEM. -/
def State.imgWord (s : State) (a : Nat) : Word := Memory.read Config.unlistedWord s.imgMem a

/-- CT[i] (10_state.md R34). -/
def State.ctEntry (s : State) (i : Nat) : BitVec 26 := Memory.read Config.unlistedEntry s.ct i

/-- CT[i].TAG. -/
def State.ctTag (s : State) (i : Nat) : BitVec 2 := (s.ctEntry i).extractLsb' 24 2

/-- CT[i].RGB. -/
def State.ctRgb (s : State) (i : Nat) : Rgb := (s.ctEntry i).extractLsb' 0 24

/-- `MemRead(IN, a, n)` (00_scope.md R10). -/
def State.inBytes (s : State) (a n : Nat) : Bytes := (List.range n).map (fun k => s.inByte (a + k))

/-- `MemRead(PB, a, n)` (00_scope.md R10). -/
def State.pbBytes (s : State) (a n : Nat) : Bytes := (List.range n).map (fun k => s.pbByte (a + k))

/-- Store one byte of IN_MEM (host only; the engine never writes IN, 20_memory.md R70). -/
def State.setInByte (a : Nat) (v : Byte) (s : State) : State :=
  { s with inMem := Memory.write Config.unlistedByte s.inMem a [v] }

/-- Store bytes of PB_MEM. -/
def State.setPbBytes (a : Nat) (vs : Bytes) (s : State) : State :=
  { s with pbMem := Memory.write Config.unlistedByte s.pbMem a vs }

/-- `MemWrite(PB, a, n, [0x00] * n)` (45_assembler.md R271). -/
def State.zeroPb (a n : Nat) (s : State) : State :=
  { s with pbMem := Memory.clear s.pbMem a n }

/-- Store words of IMG_MEM (engine only, 20_memory.md R70). -/
def State.setImgWords (a : Nat) (vs : List Word) (s : State) : State :=
  { s with imgMem := Memory.write Config.unlistedWord s.imgMem a vs }

/-- `MemWrite(PB, a, len vs, vs)` by the engine, which reaches no address outside PB (20_memory.md R71). -/
def State.enginePbWrite (a : Nat) (vs : Bytes) (s : State) : Result :=
  if a + vs.length ≤ s.caps.pbCap then .next (s.setPbBytes a vs) else .fault .memoryRange

/-- The engine's write of IMG words, which reaches no address outside IMG (20_memory.md R71). -/
def State.engineImgWrite (a : Nat) (vs : List Word) (s : State) : Result :=
  if a + vs.length ≤ s.caps.imgCap then .next (s.setImgWords a vs) else .fault .memoryRange

/-! ## Sequencing -/

/-- Go on from a next state; a stop stays a stop. -/
def andThen (r : Result) (f : State → Result) : Result :=
  match r with
  | .next s => f s
  | .fault e => .fault e
  | .refused e => .refused e

/-- Put the engine where it works next. -/
def State.setEngine (e : Engine) (s : State) : State := { s with engine := e }

/-- BUSY: the engine is not in IDLE (10_state.md R45). -/
def State.busy (s : State) : Bool := decide (s.engine ≠ .idle)

/-- The start sequence: STATUS cleared but for BUSY, every counter, G5_OUT and G5_IN cleared, phase BUSY
(47_host_operations.md R342). -/
def State.startSequence (s : State) : State :=
  { s with status := busyBit, cnt := Counters.zero, g5Out := 0, g5In := 0, engine := .launched }

/-- Completion: BUSY 0, DONE 1, phase IDLE; the events stay (47_host_operations.md R350). -/
def State.complete (s : State) : State :=
  { s with status := (s.status &&& ~~~busyBit) ||| doneBit, engine := .idle }

/-- The configuration error outcome (47_host_operations.md R344). -/
def State.cfgError (s : State) : State := (s.raise .cfgErr).complete

/-- Write the registers the host writes. -/
def State.setRegs (f : Regs → Regs) (s : State) : State := { s with regs := f s.regs }

/-- Record the result registers of a G5 decode (10_state.md R32; 41_g5.md R141). -/
def State.setG5Result (emitted cursor : Nat) (s : State) : State :=
  { s with g5Out := BitVec.ofNat 32 emitted, g5In := BitVec.ofNat 32 (min cursor 0xFFFFFFFF) }

/-- Write PLANE_STATE.NEXT_PLANE (10_state.md R33). -/
def State.setNextPlane (p : BitVec 1) (s : State) : State := { s with nextPlane := p }

/-- Hand a value to the host (assumption 3). -/
def State.respond (r : HostResponse) (s : State) : State := { s with responses := s.responses ++ [r] }

/-- Count one free value drawn (assumption 7). -/
def State.drawn (s : State) : State := { s with freeIx := s.freeIx + 1 }

/-- Replace the host actions to come. -/
def State.setInputs (l : List HostInput) (s : State) : State := { s with inputs := l }

/-! ## The register map -/

/-- The register at an offset of the REG space (10_state.md R22, R35). -/
def regAt (off : Nat) : RegName :=
  if off = 0x000 then .ctrl
  else if off = 0x004 then .status
  else if off = 0x008 then .width
  else if off = 0x00C then .height
  else if off = 0x010 then .fmt
  else if off = 0x014 then .inLen
  else if off = 0x018 then .expLen
  else if off = 0x01C then .ctCount
  else if off = 0x020 then .cntBlk
  else if off = 0x024 then .cntCodec0
  else if off = 0x028 then .cntCodec1
  else if off = 0x02C then .cntZfail
  else if off = 0x030 then .g5Out
  else if off = 0x034 then .g5In
  else if off = 0x038 then .planeState
  else if Config.ctBase ≤ off then .ct ((off - Config.ctBase) / 4)
  else .reserved

/-- A legal register access: 32 bits, aligned, below 0x500 (20_memory.md R74). -/
def regAccessOk (width off : Nat) : Bool := decide (width = 32 ∧ off % 4 = 0 ∧ off < Config.regSpace)

/-- A register's value: its fields at their places, reserved bits 0, START 0 (10_state.md R23–R35). -/
def State.regRead (r : RegName) (s : State) : Word :=
  match r with
  | .ctrl => ctrlWord false s.regs.op
  | .status => s.status
  | .width => 0#16 ++ s.regs.width
  | .height => 0#16 ++ s.regs.height
  | .fmt => fmtWord s.regs.rot s.regs.bpp
  | .inLen => s.regs.inLen
  | .expLen => s.regs.expLen
  | .ctCount => 0#23 ++ s.regs.ctCount
  | .cntBlk => s.cnt.applied ++ s.cnt.blocks
  | .cntCodec0 => s.cnt.zlib ++ s.cnt.raw
  | .cntCodec1 => s.cnt.skipped ++ s.cnt.g5
  | .cntZfail => 0#16 ++ s.cnt.zfail
  | .g5Out => s.g5Out
  | .g5In => s.g5In
  | .planeState => 0#31 ++ s.nextPlane
  | .ct i => 0#6 ++ s.ctEntry i
  | .reserved => 0

/-- Store the fields of a written register; read-only and reserved registers ignore the write (10_state.md R35). CTRL is
written by its instructions, CTRL.SETOP and START, and only its OP field is stored here (10_state.md R24). -/
def State.regWrite (r : RegName) (v : Word) (s : State) : State :=
  match r with
  | .ctrl => s.setRegs (fun g => { g with op := v.extractLsb' 0 3 })
  | .status => s
  | .width => s.setRegs (fun g => { g with width := v.extractLsb' 0 16 })
  | .height => s.setRegs (fun g => { g with height := v.extractLsb' 0 16 })
  | .fmt => s.setRegs (fun g => { g with bpp := v.extractLsb' 0 4, rot := v.extractLsb' 8 2 })
  | .inLen => s.setRegs (fun g => { g with inLen := v })
  | .expLen => s.setRegs (fun g => { g with expLen := v })
  | .ctCount => s.setRegs (fun g => { g with ctCount := v.extractLsb' 0 9 })
  | .cntBlk => s
  | .cntCodec0 => s
  | .cntCodec1 => s
  | .cntZfail => s
  | .g5Out => s
  | .g5In => s
  | .planeState => s
  | .ct i => { s with ct := Memory.write Config.unlistedEntry s.ct i [v.extractLsb' 0 26] }
  | .reserved => s

/-- The state after a reset input: every register as after reset, the memories holding what the input carries, any value
(70_reset_and_hazards.md R400, R401; assumption 6). The capacities and the host's side are no part of what is reset. -/
def State.resetInput (inMem pbMem : List Host.Cell) (imgMem : Memory 32) (s : State) : State :=
  { State.reset with
    caps := s.caps
    inMem := Memory.ofCells Config.unlistedByte s.caps.inCap inMem []
    pbMem := Memory.ofCells Config.unlistedByte s.caps.pbCap pbMem []
    imgMem := Memory.ofCells Config.unlistedWord s.caps.imgCap imgMem []
    inputs := s.inputs
    responses := s.responses
    freeIx := s.freeIx }

end Sys2Proof.Machine
end

