-- ==== Sys2Proof/Machine/Operands.lean ====
section
/-!
DEFINITION. Operand forms (30_encoding.md R116), the derived geometry (10_state.md R37–R40) and the configuration check
(47_host_operations.md R343). Every quantity is an unbounded natural (00_scope.md R8).
-/

namespace Sys2Proof.Machine

/-! ## Fields of G5 commands and headers -/

/-- Run length N + 1, 1..16 (30_encoding.md R108). -/
def runLength (n : BitVec 4) : Nat := n.toNat + 1

/-- Literal length N + 1, 1..128 (30_encoding.md R109). -/
def litLength (n : BitVec 7) : Nat := n.toNat + 1

/-- The colour byte of RUN.B (30_encoding.md R108). -/
def blackByte : Byte := 0x00

/-- The colour byte of RUN.W (30_encoding.md R108). -/
def whiteByte : Byte := 0xFF

/-- The declared length of a G5 command, from its first byte alone (30_encoding.md R110). -/
def g5CommandLength (c : Byte) : Nat := if c.getLsbD 7 then 1 else 2 + (c.extractLsb' 0 7).toNat

/-- `start_row` of block bytes (30_encoding.md R102). -/
def startRowOf (d : Bytes) : Nat := (u16le d 0).toNat

/-- `row_count` of block bytes (30_encoding.md R102). -/
def rowCountOf (d : Bytes) : Nat := (u16le d 2).toNat

/-- `flags[0]` of block bytes (30_encoding.md R104). -/
def flagPlaneOf (d : Bytes) : Nat := ((byteAt d 5).extractLsb' 0 1).toNat

/-! ## Geometry -/

/-- W (10_state.md R25). -/
def State.w (s : State) : Nat := s.regs.width.toNat

/-- H (10_state.md R26). -/
def State.h (s : State) : Nat := s.regs.height.toNat

/-- Bits per pixel (10_state.md R27). -/
def State.b (s : State) : Nat := s.regs.bpp.toNat

/-- The rotation code is odd: 90° or 270° (10_state.md R37). -/
def State.oddRot (s : State) : Bool := s.regs.rot.getLsbD 0

/-- We, the effective width (10_state.md R37). -/
def State.we (s : State) : Nat := if s.oddRot then s.h else s.w

/-- He, the effective height (10_state.md R37). -/
def State.he (s : State) : Nat := if s.oddRot then s.w else s.h

/-- bpr, bytes per row of one plane (10_state.md R38). -/
def State.bpr (s : State) : Nat := if s.b ≤ 2 then ceilDivNat s.we 8 else ceilDivNat (s.we * s.b) 8

/-- NP, the number of planes (10_state.md R39). -/
def State.np (s : State) : Nat := if s.b = 2 then 2 else 1

/-- PSIZE, bytes of one plane (10_state.md R40). -/
def State.psize (s : State) : Nat := s.bpr * s.he

/-- N, the valid colour-table entries (10_state.md R31). -/
def State.n (s : State) : Nat := s.regs.ctCount.toNat

/-! ## The colour table -/

/-- TAG of a BLACK entry (10_state.md R34). -/
def tagBlack : BitVec 2 := 1

/-- TAG of a WHITE entry (10_state.md R34). -/
def tagWhite : BitVec 2 := 2

/-- TAG of an entry with any other key (10_state.md R34). -/
def tagOther : BitVec 2 := 0

/-- The reserved TAG (10_state.md R34). -/
def tagReserved : BitVec 2 := 3

/-- The least i < N with CT[i].TAG = t (46_unpack_render.md R294). -/
def State.findTag (t : BitVec 2) (s : State) : Option Nat := (List.range s.n).find? (fun i => s.ctTag i == t)

/-- How many i < N have CT[i].TAG = t. -/
def State.countTag (t : BitVec 2) (s : State) : Nat := ((List.range s.n).filter (fun i => s.ctTag i == t)).length

/-! ## The configuration check (47_host_operations.md R343), row by row -/

/-- `W ≥ 1` and `H ≥ 1`. -/
def State.dimsOk (s : State) : Bool := decide (1 ≤ s.w ∧ 1 ≤ s.h)

/-- `1 ≤ b ≤ 8`. -/
def State.bppOk (s : State) : Bool := decide (Config.bppMin ≤ s.b ∧ s.b ≤ Config.bppMax)

/-- `NP · PSIZE ≤ PB_CAP`. -/
def State.planesOk (s : State) : Bool := decide (s.np * s.psize ≤ s.caps.pbCap)

/-- `IN_LEN ≤ IN_CAP`. -/
def State.inLenOk (s : State) : Bool := decide (s.regs.inLen.toNat ≤ s.caps.inCap)

/-- `N ≤ 256`. -/
def State.ctCountOk (s : State) : Bool := decide (s.n ≤ Config.ctMax)

/-- No `CT[i].TAG = 3` for `i < N`. -/
def State.tagsOk (s : State) : Bool := decide (s.countTag tagReserved = 0)

/-- At most one `i < N` with TAG = BLACK and at most one with TAG = WHITE. -/
def State.keysOk (s : State) : Bool := decide (s.countTag tagBlack ≤ 1 ∧ s.countTag tagWhite ≤ 1)

/-- `W · H ≤ IMG_CAP`. -/
def State.imageOk (s : State) : Bool := decide (s.w * s.h ≤ s.caps.imgCap)

/-- `EXPLEN ≤ PB_CAP`. -/
def State.expLenOk (s : State) : Bool := decide (s.regs.expLen.toNat ≤ s.caps.pbCap)

/-- `configOk(op)`: every condition of the operation's column (47_host_operations.md R343). -/
def State.configOk (op : BitVec 3) (s : State) : Bool :=
  match op.toNat with
  | 0 => true
  | 1 => s.dimsOk && s.bppOk && s.planesOk && s.inLenOk
  | 2 => s.dimsOk && s.bppOk && s.planesOk && s.ctCountOk && s.tagsOk && s.keysOk && s.imageOk
  | 3 => s.dimsOk && s.bppOk && s.planesOk && s.inLenOk && s.ctCountOk && s.tagsOk && s.keysOk && s.imageOk
  | 4 => s.inLenOk && s.expLenOk
  | _ => false

end Sys2Proof.Machine
end

