-- ==== Sys2Proof/Machine/Framer.lean ====
section
/-!
DEFINITION. The block framer (44_framer.md): the meaning of FRAME and the end of the stream.
-/

namespace Sys2Proof.Machine

/-- `IN_LEN − FPOS`: the stream bytes left (44_framer.md R241). -/
def State.streamLeft (fpos : Nat) (s : State) : Nat := s.regs.inLen.toNat - fpos

/-- The payload a frame takes: the declared length, or what remains behind the prefix (44_framer.md R243). -/
def State.frameLength (len : Word) (fpos : Nat) (s : State) : Nat := min len.toNat (s.streamLeft (fpos + 4))

/-- FRAME (44_framer.md R241–R243): the payload is cut to the stream with a TRUNC event, the cursor moves behind it, the block
is counted, and the resolver is next. -/
def execFrame (len : Word) (s : State) : Result :=
  match s.engine with
  | .framing fpos =>
    if s.streamLeft fpos < 4 then .refused .outOfContext
    else if s.caps.inCap < s.regs.inLen.toNat then .fault .memoryRange
    else
      let n := s.frameLength len fpos
      .next (((s.raiseIf (decide (s.streamLeft (fpos + 4) < len.toNat)) .trunc).count Counters.incBlocks).setEngine
        (.resolving (fpos + 4 + n) (s.inBytes (fpos + 4) n)))
  | _ => .refused .outOfContext

/-- The start of the pixel loop, on an all-white work grid (46_unpack_render.md R290, R291). -/
def State.beginRender (s : State) : State := s.setEngine (.drawing 0 0 [])

/-- The end of the stream: 1 to 3 bytes left are a TAIL event (44_framer.md R245); DECODE completes, DECODE_RENDER goes on to
render (47_host_operations.md R346, R348). -/
def State.endOfStream (fpos : Nat) (s : State) : State :=
  let t := s.raiseIf (decide (0 < s.streamLeft fpos)) .tail
  if s.regs.op = 3 then t.beginRender else t.complete

end Sys2Proof.Machine
end

