-- ==== Sys2Proof/Machine/G5.lean ====
section
/-!
DEFINITION. The G5 decoder (41_g5.md): its commands over a running decode, the whole decode as a function of its source
string, and the meanings of LIT, RUN.B and RUN.W.
-/

namespace Sys2Proof.Machine

/-! ## A running decode -/

/-- A decode about to read its first command (41_g5.md R141). -/
def G5Run.begin (src : Bytes) (exp : Nat) : G5Run := { src := src, exp := exp, gpos := 0, out := [] }

/-- The loop condition: a command byte remains and the output is not full (41_g5.md R141). -/
def G5Run.running (g : G5Run) : Bool := decide (g.gpos < g.src.length ∧ g.out.length < g.exp)

/-- A run of `n` bytes `v`, cut to the room left (41_g5.md R142, R143). -/
def G5Run.run (v : Byte) (n : Nat) (g : G5Run) : G5Run :=
  { g with out := g.out ++ List.replicate (min n (g.exp - g.out.length)) v, gpos := g.gpos + 1 }

/-- A literal of declared length `n`: the bytes that are there, cut to the room left; the cursor moves by the declared length
(41_g5.md R144). -/
def G5Run.literal (n : Nat) (g : G5Run) : G5Run :=
  { g with
    out := g.out ++ (slice g.src (g.gpos + 1) (g.gpos + 1 + n)).take (g.exp - g.out.length)
    gpos := g.gpos + 1 + n }

/-- The command at the cursor, executed (41_g5.md R141). -/
def G5Run.command (g : G5Run) : G5Run :=
  match decodeG5 (byteAt g.src g.gpos) with
  | .runB _ n => g.run blackByte (runLength n)
  | .runW _ n => g.run whiteByte (runLength n)
  | .lit n => g.literal (litLength n)
  | _ => g

/-- The loop of 41_g5.md R141, at most `k` times. -/
def G5Run.loop : Nat → G5Run → G5Run
  | 0, g => g
  | k + 1, g => if g.running then G5Run.loop k g.command else g

/-- `g5Decode(src, exp)`: the decode's final run, whose `out` is the result and whose `gpos` is the final cursor (41_g5.md
R140, R141). Each command moves the cursor, so `len(src)` rounds are enough (41_g5.md R150). -/
def g5Decode (src : Bytes) (exp : Nat) : G5Run := G5Run.loop src.length (G5Run.begin src exp)

/-! ## Meanings -/

/-- Change the running decode; where no decode has a command to read, a command has no meaning (assumption 9). -/
def State.onG5 (f : G5Run → G5Run) (s : State) : Result :=
  match s.engine with
  | .g5 job g => if g.running then .next (s.setEngine (.g5 job (f g))) else .refused .outOfContext
  | _ => .refused .outOfContext

/-- LIT (41_g5.md R144). -/
def execLit (n : BitVec 7) (s : State) : Result := s.onG5 (G5Run.literal (litLength n))

/-- RUN.B (41_g5.md R142); bits 5:4 take part in nothing (30_encoding.md R118). -/
def execRunB (_ab : BitVec 2) (n : BitVec 4) (s : State) : Result := s.onG5 (G5Run.run blackByte (runLength n))

/-- RUN.W (41_g5.md R143). -/
def execRunW (_ab : BitVec 2) (n : BitVec 4) (s : State) : Result := s.onG5 (G5Run.run whiteByte (runLength n))

/-! ## The end of a decode -/

/-- The result registers and the event at the end of every G5 decode (41_g5.md R141). -/
def State.recordG5 (g : G5Run) (s : State) : State :=
  (s.setG5Result g.out.length g.gpos).raiseIf (decide (g.out.length < g.exp)) .g5short

/-- The end of the loop: the G5 operation stores its output and completes (47_host_operations.md R349); a G5 block counts and
hands `header ++ out` on (42_resolver.md R175). -/
def State.finishG5 (job : G5Job) (g : G5Run) (s : State) : Result :=
  match job with
  | .standalone => andThen ((s.recordG5 g).enginePbWrite 0 g.out) (fun t => .next t.complete)
  | .block fpos header =>
    .next (((s.recordG5 g).count Counters.incG5).setEngine (.dispatching fpos (header ++ g.out)))

end Sys2Proof.Machine
end

