-- ==== Sys2Proof/Machine/Inflate.lean ====
section
/-!
DEFINITION. The deflate decoder (43_inflate.md; all of it the spec's general knowledge, assumption 16): bit reader, Huffman
codes, Adler-32, the effect of each block header and symbol on the inflate state, and the meanings of the DFL instructions.
-/

namespace Sys2Proof.Machine

/-- The failure reasons (43_inflate.md R190); none is visible outside the decoder. -/
inductive InflateFail where
  | trunc
  | btype
  | nlen
  | tooMany
  | clCode
  | repeatNoPrev
  | repeatOverflow
  | noEob
  | litCode
  | distCode
  | badCode
  | badLenSym
  | badDistSym
  | far
  | adler
deriving DecidableEq, Repr

/-! ## Bits (43_inflate.md R193) -/

/-- The reader at the first deflate byte of a payload (43_inflate.md R191, R192). -/
def BitReader.begin (p : Bytes) : BitReader := { src := p, q := 2, t := 0 }

/-- `bit()` -/
def BitReader.bit (r : BitReader) : Except InflateFail (Nat × BitReader) :=
  match r.src[r.q]? with
  | none => .error .trunc
  | some b =>
    .ok ((b.getLsbD r.t).toNat, if r.t + 1 = 8 then { r with q := r.q + 1, t := 0 } else { r with t := r.t + 1 })

/-- `bits(n)`: the first bit read is bit 0. -/
def BitReader.bits : Nat → BitReader → Except InflateFail (Nat × BitReader)
  | 0, r => .ok (0, r)
  | n + 1, r => do
    let (b, r) ← r.bit
    let (v, r) ← BitReader.bits n r
    return (b + 2 * v, r)

/-- `align()` -/
def BitReader.align (r : BitReader) : BitReader := if r.t ≠ 0 then { r with q := r.q + 1, t := 0 } else r

/-- `n` times `byte()`, called with t = 0. -/
def BitReader.bytes (n : Nat) (r : BitReader) : Except InflateFail (Bytes × BitReader) :=
  if r.q + n ≤ r.src.length then .ok (slice r.src r.q (r.q + n), { r with q := r.q + n }) else .error .trunc

/-! ## Huffman codes (43_inflate.md R194, R195) -/

/-- The symbol a code assigns to (length l, code c). -/
def HuffCode.lookup (T : HuffCode) (l c : Nat) : Option Nat :=
  (T.find? (fun e => e.len == l && e.code == c)).map CodeEntry.sym

/-- `decode(T)` from length `l` on, with `c` read so far and `k` lengths left to try. -/
def HuffCode.decodeFrom (T : HuffCode) : Nat → Nat → Nat → BitReader → Except InflateFail (Nat × BitReader)
  | 0, _, _, _ => .error .badCode
  | k + 1, l, c, r => do
    let (b, r) ← r.bit
    match HuffCode.lookup T l (2 * c + b) with
    | some s => return (s, r)
    | none => HuffCode.decodeFrom T k (l + 1) (2 * c + b) r

/-- `decode(T)`: lengths 1..15, most significant bit first. -/
def HuffCode.decode (T : HuffCode) (r : BitReader) : Except InflateFail (Nat × BitReader) :=
  HuffCode.decodeFrom T 15 1 0 r

/-- The three kinds of code (43_inflate.md R195). -/
inductive CodeKind where
  | cl
  | lit
  | dist
deriving DecidableEq, Repr

/-- "Fail(kind code)". -/
def CodeKind.fail : CodeKind → InflateFail
  | .cl => .clCode
  | .lit => .litCode
  | .dist => .distCode

/-- `left` after the lengths `l .. l + k − 1`, or nothing where the code is over-subscribed. -/
def codeSpace (lens : List Nat) : Nat → Nat → Nat → Option Nat
  | 0, _, left => some left
  | k + 1, l, left => if 2 * left < lens.count l then none else codeSpace lens k (l + 1) (2 * left - lens.count l)

/-- `next[l], next[l+1], …` for `k` lengths, from the `code` and `count` of length `l − 1`. -/
def codeStarts (lens : List Nat) : Nat → Nat → Nat → Nat → List Nat
  | 0, _, _, _ => []
  | k + 1, l, code, cnt => 2 * (code + cnt) :: codeStarts lens k (l + 1) (2 * (code + cnt)) (lens.count l)

/-- The assignments for symbols `s, s + 1, …` with these lengths, in increasing order of the symbol; `next` is indexed by
length. -/
def assignCodes : List Nat → Nat → List Nat → HuffCode
  | _, _, [] => []
  | next, s, l :: ls =>
    if l = 0 then assignCodes next (s + 1) ls
    else { len := l, code := next.getD l 0, sym := s } ::
      assignCodes (next.set l (next.getD l 0 + 1)) (s + 1) ls

/-- The canonical assignment of codes of lengths 1..15, without the validity checks. -/
def canonicalCode (lens : List Nat) : HuffCode := assignCodes (0 :: codeStarts lens 15 1 0 0) 0 lens

/-- `build(len, kind)` (43_inflate.md R195). -/
def buildCode (lens : List Nat) (kind : CodeKind) : Except InflateFail HuffCode :=
  match codeSpace lens 15 1 1 with
  | none => .error kind.fail
  | some left =>
    let maxl := lens.foldl max 0
    if maxl = 0 then (if kind = .cl then .error .clCode else .ok [])
    else if 0 < left ∧ (kind = .cl ∨ maxl ≠ 1) then .error kind.fail
    else .ok (canonicalCode lens)

/-- The lengths of FIXED_LIT (43_inflate.md R198). -/
def fixedLitLengths : List Nat :=
  List.replicate 144 8 ++ List.replicate 112 9 ++ List.replicate 24 7 ++ List.replicate 8 8

/-- Codes `code, code + 1, …` of one length for `n` successive symbols. -/
def codeRange (len code sym n : Nat) : HuffCode :=
  (List.range n).map (fun k => { len := len, code := code + k, sym := sym + k })

/-- FIXED_LIT, by the codes 43_inflate.md R198 lists. -/
def fixedLit : HuffCode :=
  codeRange 8 0x30 0 144 ++ codeRange 9 0x190 144 112 ++ codeRange 7 0x00 256 24 ++ codeRange 8 0xC0 280 8

/-- FIXED_DIST: 32 symbols of length 5, symbol s with code s (43_inflate.md R198). -/
def fixedDist : HuffCode := codeRange 5 0 0 32

/-! ## Adler-32 (43_inflate.md R216) -/

/-- The sums of the empty string. -/
def AdlerSums.begin : AdlerSums := { s1 := 1, s2 := 0 }

/-- One more byte. -/
def AdlerSums.byte (a : AdlerSums) (b : Byte) : AdlerSums :=
  { s1 := (a.s1 + b.toNat) % 65521, s2 := (a.s2 + (a.s1 + b.toNat) % 65521) % 65521 }

/-- More bytes, in order. -/
def AdlerSums.feed (a : AdlerSums) (d : Bytes) : AdlerSums := d.foldl AdlerSums.byte a

/-- The checksum's value. -/
def AdlerSums.value (a : AdlerSums) : Nat := a.s2 * 65536 + a.s1

/-- `adler32(d)`. -/
def adler32 (d : Bytes) : Nat := (AdlerSums.begin.feed d).value

/-! ## Tables (43_inflate.md R201, R209, R211) -/

/-- ORDER, the order of the code-length code lengths. -/
def clOrder : List Nat := [16, 17, 18, 0, 8, 7, 9, 6, 10, 5, 11, 4, 12, 3, 13, 2, 14, 1, 15]

/-- LBASE and LEXT of the length symbols 257..285. -/
def lengthTable : List (Nat × Nat) :=
  [(3, 0), (4, 0), (5, 0), (6, 0), (7, 0), (8, 0), (9, 0), (10, 0), (11, 1), (13, 1), (15, 1), (17, 1), (19, 2), (23, 2),
   (27, 2)] ++
  [(31, 2), (35, 3), (43, 3), (51, 3), (59, 3), (67, 4), (83, 4), (99, 4), (115, 4), (131, 5), (163, 5), (195, 5), (227, 5),
   (258, 0)]

/-- DBASE and DEXT of the distance symbols 0..29. -/
def distTable : List (Nat × Nat) :=
  [(1, 0), (2, 0), (3, 0), (4, 0), (5, 1), (7, 1), (9, 2), (13, 2), (17, 3), (25, 3), (33, 4), (49, 4), (65, 5), (97, 5),
   (129, 6)] ++
  [(193, 6), (257, 7), (385, 7), (513, 8), (769, 8), (1025, 9), (1537, 9), (2049, 10), (3073, 10), (4097, 11), (6145, 11),
   (8193, 12), (12289, 12), (16385, 13), (24577, 13)]

/-! ## The effect of headers and symbols -/

/-- An inflate about to read its first block header (43_inflate.md R191). -/
def Inflate.begin (p : Bytes) : Inflate :=
  { br := BitReader.begin p, out := [], adler := AdlerSums.begin, final := false, mode := .header }

/-- Produce bytes; the running sums follow (10_state.md R47). -/
def Inflate.emit (d : Bytes) (z : Inflate) : Inflate := { z with out := z.out ++ d, adler := z.adler.feed d }

/-- Move the bit reader. -/
def Inflate.setReader (r : BitReader) (z : Inflate) : Inflate := { z with br := r }

/-- Move on in the format. -/
def Inflate.setMode (m : InflateMode) (z : Inflate) : Inflate := { z with mode := m }

/-- The end of a block: the trailer after the final one, else the next header (43_inflate.md R191, R208). -/
def Inflate.endBlock (z : Inflate) : Inflate := { z with mode := if z.final then .trailer else .header }

/-- `storedBlock` (43_inflate.md R196). -/
def Inflate.storedBlock (final : Bool) (z : Inflate) : Except InflateFail Inflate := do
  let (h, r) ← z.br.align.bytes 4
  let len := (u16le h 0).toNat
  if (u16le h 2).toNat ≠ len ^^^ 0xFFFF then .error .nlen
  else
    let (d, r) ← r.bytes len
    return ((({ z with final := final }).setReader r).emit d).endBlock

/-- A fixed block's codes (43_inflate.md R191, R198). -/
def Inflate.fixedBlock (final : Bool) (z : Inflate) : Inflate :=
  { z with final := final, mode := .body fixedLit fixedDist }

/-- The code-length code lengths: 3 bits for each entry of an order (43_inflate.md R201). -/
def readClLengths : List Nat → List Nat → BitReader → Except InflateFail (List Nat × BitReader)
  | [], cl, r => .ok (cl, r)
  | i :: order, cl, r => do
    let (v, r) ← r.bits 3
    readClLengths order (cl.set i v) r

/-- A dynamic block's header and code-length code (43_inflate.md R200–R202). -/
def Inflate.dynamicBlock (final : Bool) (z : Inflate) : Except InflateFail Inflate := do
  let (hlit, r) ← z.br.bits 5
  let (hdist, r) ← r.bits 5
  let (hclen, r) ← r.bits 4
  if 286 < hlit + 257 ∨ 30 < hdist + 1 then .error .tooMany
  else
    let (cl, r) ← readClLengths (clOrder.take (hclen + 4)) (List.replicate 19 0) r
    let clt ← buildCode cl .cl
    return { (z.setReader r) with final := final, mode := .lengths (hlit + 257) (hdist + 1) clt [] }

/-- More code lengths, none beyond the `nlit + ndist` announced (43_inflate.md R203). -/
def Inflate.addLengths (more : List Nat) (z : Inflate) : Except InflateFail Inflate :=
  match z.mode with
  | .lengths nlit ndist clt lens =>
    if nlit + ndist < (lens ++ more).length then .error .repeatOverflow
    else .ok (z.setMode (.lengths nlit ndist clt (lens ++ more)))
  | _ => .error .badCode

/-- Code-length symbol 16: the last length 3 + bits(2) times (43_inflate.md R203). -/
def Inflate.repeatLast (z : Inflate) : Except InflateFail Inflate :=
  match z.mode with
  | .lengths _ _ _ lens =>
    match lens.getLast? with
    | none => .error .repeatNoPrev
    | some l => do
      let (k, r) ← z.br.bits 2
      (z.setReader r).addLengths (List.replicate (3 + k) l)
  | _ => .error .badCode

/-- Code-length symbols 17 and 18: `base + bits(ext)` zero lengths (43_inflate.md R203). -/
def Inflate.repeatZero (base ext : Nat) (z : Inflate) : Except InflateFail Inflate := do
  let (k, r) ← z.br.bits ext
  (z.setReader r).addLengths (List.replicate (base + k) 0)

/-- All code lengths are read: end-of-block check and the block's two codes (43_inflate.md R204, R205). -/
def Inflate.buildTables (nlit ndist : Nat) (lens : List Nat) (z : Inflate) : Except InflateFail Inflate :=
  if lens.getD 256 0 = 0 then .error .noEob
  else do
    let lit ← buildCode (lens.take nlit) .lit
    let dist ← buildCode ((lens.drop nlit).take ndist) .dist
    return z.setMode (.body lit dist)

/-- A length symbol: its length with the extra bits; the distance symbol is next (43_inflate.md R209). -/
def Inflate.lengthSymbol (sym : Nat) (z : Inflate) : Except InflateFail Inflate :=
  match z.mode, (if 257 ≤ sym then lengthTable[sym - 257]? else none) with
  | .body lit dist, some (base, ext) => do
    let (e, r) ← z.br.bits ext
    return (z.setReader r).setMode (.distance lit dist (base + e))
  | _, _ => .error .badLenSym

/-- The byte-by-byte copy (43_inflate.md R213): `n` bytes, each from `dist` back. -/
def copyBack (dist : Nat) : Nat → Bytes → Bytes
  | 0, out => out
  | n + 1, out => copyBack dist n (out ++ [out.getD (out.length - dist) 0])

/-- A distance symbol: its distance with the extra bits, then the copy (43_inflate.md R211, R213). -/
def Inflate.distanceSymbol (sym : Nat) (z : Inflate) : Except InflateFail Inflate :=
  match z.mode, distTable[sym]? with
  | .distance lit dist len, some (base, ext) => do
    let (e, r) ← z.br.bits ext
    if z.out.length < base + e then .error .far
    else
      return ((z.setReader r).emit ((copyBack (base + e) len z.out).drop z.out.length)).setMode (.body lit dist)
  | _, _ => .error .badDistSym

/-- The trailer: aligned, big-endian, equal to the Adler-32 of the output (43_inflate.md R191, R215). -/
def Inflate.checkTrailer (z : Inflate) : Except InflateFail Bytes := do
  let (h, _) ← z.br.align.bytes 4
  if (u32be h 0).toNat ≠ z.adler.value then .error .adler else return z.out

/-! ## Reading the next instruction of a payload -/

/-- The next block header or symbol and the inflate state behind its bits, or nothing where the bits hold none (the lengths
are complete, the trailer is next, or the decode fails). -/
def Inflate.fetch (z : Inflate) : Option (Instr × Inflate) :=
  match z.mode with
  | .header =>
    match z.br.bits 3 with
    | .ok (v, r) => some (decodeDflBlock (BitVec.ofNat 3 v), z.setReader r)
    | .error _ => none
  | .lengths nlit ndist clt lens =>
    if lens.length < nlit + ndist then
      match clt.decode z.br with
      | .ok (s, r) => (decodeClSym s).toOption.map (fun i => (i, z.setReader r))
      | .error _ => none
    else none
  | .body lit _ =>
    match lit.decode z.br with
    | .ok (s, r) => (decodeLitSym s).toOption.map (fun i => (i, z.setReader r))
    | .error _ => none
  | .distance _ dist _ =>
    match dist.decode z.br with
    | .ok (s, r) => (decodeDistSym s).toOption.map (fun i => (i, z.setReader r))
    | .error _ => none
  | .trailer => none

/-- What the decoder reads next: a block header or a symbol of one of the three alphabets; in the trailer, nothing. -/
def Inflate.context (z : Inflate) : Option Format :=
  match z.mode with
  | .header => some .dflBlock
  | .lengths _ _ _ _ => some .symCl
  | .body _ _ => some .symLit
  | .distance _ _ _ => some .symDist
  | .trailer => none

/-! ## Meanings -/

/-- A failed inflate: the counter, the event, and on with the next block; nothing of the payload survives
(42_resolver.md R173; 43_inflate.md R218). -/
def State.inflateFailed (fpos : Nat) (s : State) : State :=
  ((s.count Counters.incZfail).raise .zfail).setEngine (.framing fpos)

/-- Change the inflate state where the decoder reads this format; a failure ends the payload. Elsewhere a DFL instruction has
no meaning (assumption 9). -/
def State.onInflate (ctx : Format) (f : Inflate → Except InflateFail Inflate) (s : State) : Result :=
  match s.engine with
  | .inflating fpos z =>
    if z.context = some ctx then
      match f z with
      | .ok z' => .next (s.setEngine (.inflating fpos z'))
      | .error _ => .next (s.inflateFailed fpos)
    else .refused .outOfContext
  | _ => .refused .outOfContext

/-- DFL.STORED (43_inflate.md R196). -/
def execDflStored (final : Bool) (s : State) : Result := s.onInflate .dflBlock (Inflate.storedBlock final)

/-- DFL.FIXED (43_inflate.md R198). -/
def execDflFixed (final : Bool) (s : State) : Result := s.onInflate .dflBlock (fun z => .ok (z.fixedBlock final))

/-- DFL.DYNAMIC (43_inflate.md R200–R202). -/
def execDflDynamic (final : Bool) (s : State) : Result := s.onInflate .dflBlock (Inflate.dynamicBlock final)

/-- DFL.BTYPE3: the reserved block type fails the inflate (43_inflate.md R197). -/
def execDflBtype3 (_final : Bool) (s : State) : Result := s.onInflate .dflBlock (fun _ => .error .btype)

/-- DFL.LIT (43_inflate.md R207). -/
def execDflLit (sym : BitVec 8) (s : State) : Result := s.onInflate .symLit (fun z => .ok (z.emit [sym]))

/-- DFL.EOB (43_inflate.md R208). -/
def execDflEob (s : State) : Result := s.onInflate .symLit (fun z => .ok z.endBlock)

/-- DFL.LEN (43_inflate.md R209). -/
def execDflLen (sym : BitVec 9) (s : State) : Result := s.onInflate .symLit (Inflate.lengthSymbol sym.toNat)

/-- DFL.LEN.RSV: symbols 286 and 287 fail the inflate (43_inflate.md R210). -/
def execDflLenRsv (_sym : BitVec 9) (s : State) : Result := s.onInflate .symLit (fun _ => .error .badLenSym)

/-- DFL.DIST (43_inflate.md R211, R213). -/
def execDflDist (sym : BitVec 5) (s : State) : Result := s.onInflate .symDist (Inflate.distanceSymbol sym.toNat)

/-- DFL.DIST.RSV: symbols 30 and 31 fail the inflate (43_inflate.md R212). -/
def execDflDistRsv (_sym : BitVec 5) (s : State) : Result := s.onInflate .symDist (fun _ => .error .badDistSym)

/-- DFL.CL.LEN: one code length (43_inflate.md R203). -/
def execDflClLen (sym : BitVec 4) (s : State) : Result := s.onInflate .symCl (Inflate.addLengths [sym.toNat])

/-- DFL.CL.REP16 (43_inflate.md R203). -/
def execDflClRep16 (s : State) : Result := s.onInflate .symCl Inflate.repeatLast

/-- DFL.CL.REP17 (43_inflate.md R203). -/
def execDflClRep17 (s : State) : Result := s.onInflate .symCl (Inflate.repeatZero 3 3)

/-- DFL.CL.REP18 (43_inflate.md R203). -/
def execDflClRep18 (s : State) : Result := s.onInflate .symCl (Inflate.repeatZero 11 7)

/-! ## The transitions of the decoder that are no instruction -/

/-- What the decoder does where no instruction can be read: the end of the code lengths, the trailer, or a failure. A payload
that inflates counts and hands its bytes on (42_resolver.md R173). -/
def State.inflateTau (fpos : Nat) (z : Inflate) (s : State) : State :=
  match z.mode with
  | .lengths nlit ndist _ lens =>
    if lens.length < nlit + ndist then s.inflateFailed fpos
    else
      match z.buildTables nlit ndist lens with
      | .ok z' => s.setEngine (.inflating fpos z')
      | .error _ => s.inflateFailed fpos
  | .trailer =>
    match z.checkTrailer with
    | .ok d => (s.count Counters.incZlib).setEngine (.dispatching fpos d)
    | .error _ => s.inflateFailed fpos
  | _ => s.inflateFailed fpos

end Sys2Proof.Machine
end

