-- ==== Sys2Proof/Machine/Resolver.lean ====
section
/-!
DEFINITION. The block payload resolver (42_resolver.md): the meanings of the PAY instructions.
-/

namespace Sys2Proof.Machine

/-- Act on the payload the resolver holds; where it holds none, a payload class has no meaning (assumption 9). -/
def State.onPayload (f : Nat → Bytes → State) (s : State) : Result :=
  match s.engine with
  | .resolving fpos p => .next (f fpos p)
  | _ => .refused .outOfContext

/-- A zlib payload: the inflate starts from an empty history (42_resolver.md R173; 43_inflate.md R191, R213). -/
def State.beginInflate (s : State) (fpos : Nat) (p : Bytes) : State := s.setEngine (.inflating fpos (Inflate.begin p))

/-- PAY.ZLIB.7801 (42_resolver.md R172, R173). -/
def execPayZlib7801 (s : State) : Result := s.onPayload s.beginInflate

/-- PAY.ZLIB.789C (42_resolver.md R172, R173). -/
def execPayZlib789C (s : State) : Result := s.onPayload s.beginInflate

/-- PAY.ZLIB.78DA (42_resolver.md R172, R173). -/
def execPayZlib78DA (s : State) : Result := s.onPayload s.beginInflate

/-- A block with fewer than 6 bytes is skipped (42_resolver.md R174; 44_framer.md R247). -/
def State.skipShort (fpos : Nat) (s : State) : State :=
  ((s.count Counters.incSkipped).raise .short).setEngine (.framing fpos)

/-- PAY.SHORT (42_resolver.md R174). -/
def execPayShort (s : State) : Result := s.onPayload (fun fpos _ => s.skipShort fpos)

/-- PAY.G5: the decode of the bytes behind the header, `row_count · bpr` long by the header as received; the header is kept
(42_resolver.md R175, R176). -/
def execPayG5 (_startRow rowCount : BitVec 16) (_fmt : BitVec 7) (_flags : BitVec 8) (s : State) : Result :=
  s.onPayload (fun fpos p =>
    s.setEngine (.g5 (.block fpos (slice p 0 6)) (G5Run.begin (slice p 6 p.length) (rowCount.toNat * s.bpr))))

/-- PAY.RAW: the payload is the block bytes (42_resolver.md R177). -/
def execPayRaw (_startRow _rowCount : BitVec 16) (_fmt : BitVec 7) (_flags : BitVec 8) (s : State) : Result :=
  s.onPayload (fun fpos p => (s.count Counters.incRaw).setEngine (.dispatching fpos p))

end Sys2Proof.Machine
end

