-- ==== Sys2Proof/Machine/Assembler.lean ====
section
/-!
DEFINITION. The frame assembler and bit-plane interleaver (45_assembler.md), and the dispatch of block bytes to it
(44_framer.md R244).
-/

namespace Sys2Proof.Machine

/-- The destination plane and NEXT_PLANE afterwards (45_assembler.md R262–R264). For bpp = 2 the flag bit is the plane where
it is a valid plane index, which it always is: the parity fallback behind it has no run (R263). -/
def State.choosePlane (d : Bytes) (s : State) : Nat × BitVec 1 :=
  if s.b = 2 then
    if flagPlaneOf d < 2 then (flagPlaneOf d, s.nextPlane) else (s.nextPlane.toNat, ~~~s.nextPlane)
  else (0, s.nextPlane)

/-- `s_row` (45_assembler.md R266). -/
def State.firstRow (d : Bytes) (s : State) : Nat := min (startRowOf d) s.he

/-- `e_row` (45_assembler.md R266). -/
def State.endRow (d : Bytes) (s : State) : Nat := min (startRowOf d + rowCountOf d) s.he

/-- `want`, the clamped declared row bytes (45_assembler.md R266). -/
def State.wantBytes (d : Bytes) (s : State) : Nat := (s.endRow d - s.firstRow d) * s.bpr

/-- `avail`, the row bytes actually present (45_assembler.md R266). -/
def availBytes (d : Bytes) : Nat := d.length - 6

/-- `n`, the bytes written (45_assembler.md R266, R267). -/
def State.writeLength (d : Bytes) (s : State) : Nat := min (s.wantBytes d) (availBytes d)

/-- `base`, the PB address of the first byte written (45_assembler.md R266). -/
def State.writeBase (d : Bytes) (s : State) : Nat := (s.choosePlane d).1 * s.psize + s.firstRow d * s.bpr

/-- The clamp events (45_assembler.md R266, R270). -/
def State.clampEvents (d : Bytes) (s : State) : State :=
  (s.raiseIf (decide (s.he < startRowOf d + rowCountOf d)) .hclamp).raiseIf
    (decide (availBytes d < s.wantBytes d)) .dclamp

/-- `assemble(d)` (45_assembler.md R260–R270). -/
def State.assemble (d : Bytes) (s : State) : Result :=
  let t := (s.clampEvents d).setNextPlane (s.choosePlane d).2
  if s.writeLength d = 0 then .next t
  else
    andThen (t.enginePbWrite (s.writeBase d) (slice d 6 (6 + s.writeLength d)))
      (fun u => .next (u.count Counters.incApplied))

/-- `dispatch`: block bytes too short for a header are skipped, others assembled (44_framer.md R244, R247); then the framer
goes on. -/
def State.dispatch (fpos : Nat) (d : Bytes) (s : State) : Result :=
  if d.length < 6 then .next (s.skipShort fpos)
  else andThen (s.assemble d) (fun t => .next (t.setEngine (.framing fpos)))

end Sys2Proof.Machine
end

