-- ==== Sys2Proof/Machine/Render.lean ====
section
/-!
DEFINITION. The pixel unpacker, colour-table lookup and rotation engine (46_unpack_render.md): the meanings of PLANE.READ,
INDEX.EXTRACT and ROT0 to ROT3.
-/

namespace Sys2Proof.Machine

/-! ## The work grid -/

/-- The place of WORK[y][x] in the work grid, row after row. -/
def State.workIndex (x y : Nat) (s : State) : Nat := y * s.we + x

/-- WORK[y][x]; a pixel not drawn yet is white (46_unpack_render.md R291). -/
def State.workPixel (work : Memory 24) (x y : Nat) (s : State) : Rgb := Memory.read Config.white work (s.workIndex x y)

/-- Draw pixel (x, y) and move to the next one, row by row (46_unpack_render.md R290). -/
def State.drawPixel (x y : Nat) (work : Memory 24) (c : Rgb) (s : State) : State :=
  let work := Memory.write Config.white work (s.workIndex x y) [c]
  if x + 1 < s.we then s.setEngine (.drawing (x + 1) y work) else s.setEngine (.drawing 0 (y + 1) work)

/-- Act on the pixel that is next; where none is, a pixel instruction has no meaning (assumption 9). -/
def State.onPixel (f : Nat → Nat → Memory 24 → Result) (s : State) : Result :=
  match s.engine with
  | .drawing x y work => if x < s.we ∧ y < s.he then f x y work else .refused .outOfContext
  | _ => .refused .outOfContext

/-! ## The plane path -/

/-- The colour key of a plane pixel (46_unpack_render.md R293). -/
inductive ColourKey where
  | black
  | white
  | colour
deriving DecidableEq, Repr

/-- PLANE.CLASSIFY (46_unpack_render.md R293). -/
def classify (kb kc : Bool) : ColourKey :=
  match kb, kc with
  | true, true => .black
  | true, false => .black
  | false, true => .colour
  | false, false => .white

/-- The byte index of pixel (x, y) in a plane (46_unpack_render.md R292). -/
def State.planeIndex (x y : Nat) (s : State) : Nat := y * s.bpr + x / 8

/-- The mask 0x80 >> (x mod 8) of a pixel's bit (46_unpack_render.md R292). -/
def pixelMask (x : Nat) : Byte := 0x80#8 >>> (x % 8)

/-- The bit of pixel (x, y) in the plane that starts at `start` (46_unpack_render.md R292). -/
def State.planeBit (start x y : Nat) (s : State) : Bool :=
  decide (s.pbByte (start + s.planeIndex x y) &&& pixelMask x ≠ 0)

/-- `lookupTag`: the entry's RGB, or white with a KEYMISS event (46_unpack_render.md R294, R295). -/
def State.lookupTag (t : BitVec 2) (s : State) : Rgb × State :=
  match s.findTag t with
  | some i => (s.ctRgb i, s)
  | none => (Config.white, s.raise .keymiss)

/-- PLANE.LOOKUP: from key to RGB (46_unpack_render.md R294, R295). -/
def State.lookupKey (k : ColourKey) (s : State) : Rgb × State :=
  match k with
  | .black => s.lookupTag tagBlack
  | .white => s.lookupTag tagWhite
  | .colour =>
    match s.findTag tagOther with
    | some i => (s.ctRgb i, s)
    | none => (s.raise .keymiss).lookupTag tagWhite

/-- PLANE.READ (46_unpack_render.md R292–R296): the pixel's bit in the black plane and, for bpp = 2, in the colour plane;
its key; its colour. -/
def execPlaneRead (bpp : BitVec 4) (s : State) : Result :=
  s.onPixel (fun x y work =>
    if s.caps.pbCap ≤ (if bpp.toNat = 2 then s.psize else 0) + s.planeIndex x y then .fault .memoryRange
    else
      let kb := s.planeBit 0 x y
      let kc := decide (bpp.toNat = 2) && s.planeBit s.psize x y
      let r := s.lookupKey (classify kb kc)
      .next (r.2.drawPixel x y work r.1))

/-! ## The packed-index path -/

/-- The index of pixel (x, y) at `b` bits per pixel (46_unpack_render.md R297). -/
def State.pixelIndex (b x y : Nat) (s : State) : Nat :=
  let k := x * b
  let i := y * s.bpr + k / 8
  let o := k % 8
  if o + b ≤ 8 then ((s.pbByte i).toNat >>> (8 - o - b)) &&& (2 ^ b - 1)
  else
    let need := o + b - 8
    (((s.pbByte i).toNat &&& (2 ^ (8 - o) - 1)) <<< need) ||| ((s.pbByte (i + 1)).toNat >>> (8 - need))

/-- The last PB byte INDEX.EXTRACT reads for pixel (x, y) (46_unpack_render.md R297). -/
def State.lastIndexByte (b x y : Nat) (s : State) : Nat :=
  y * s.bpr + x * b / 8 + (if x * b % 8 + b ≤ 8 then 0 else 1)

/-- INDEX.EXTRACT (46_unpack_render.md R297, R298): the pixel's index; its entry's RGB whatever its TAG, or, for an index
at or above N, the initial white with an IDXOOR event. -/
def execIndexExtract (bpp : BitVec 4) (s : State) : Result :=
  s.onPixel (fun x y work =>
    if s.caps.pbCap ≤ s.lastIndexByte bpp.toNat x y then .fault .memoryRange
    else
      let idx := s.pixelIndex bpp.toNat x y
      if idx < s.n then .next (s.drawPixel x y work (s.ctRgb idx))
      else .next ((s.raise .idxoor).drawPixel x y work Config.white))

/-! ## Rotation -/

/-- An IMG word: RGB in bits 23:0, bits 31:24 = 0 (10_state.md R44). -/
def imgWordOf (c : Rgb) : Word := 0#8 ++ c

/-- The words of the image, declared rows one after another, each pixel taken from the work-grid column and row that `src`
gives for its column and row (46_unpack_render.md R299–R304). -/
def State.imageWords (src : Nat → Nat → Nat × Nat) (work : Memory 24) (s : State) : List Word :=
  (List.range (s.w * s.h)).map (fun k =>
    imgWordOf (s.workPixel work (src (k % s.w) (k / s.w)).1 (src (k % s.w) (k / s.w)).2))

/-- Rotate the work grid into IMG and complete; where no grid is finished, a rotation has no meaning (assumption 9). -/
def State.rotate (src : Nat → Nat → Nat × Nat) (s : State) : Result :=
  match s.engine with
  | .rotating work => andThen (s.engineImgWrite 0 (s.imageWords src work)) (fun t => .next t.complete)
  | _ => .refused .outOfContext

/-- ROT0: `IMG[y · W + x] <- WORK[y][x]` (46_unpack_render.md R299). -/
def execRot0 (_bpp : BitVec 4) (s : State) : Result := s.rotate (fun x y => (x, y))

/-- ROT1: `IMG[y · W + x] <- WORK[He − 1 − x][y]` (46_unpack_render.md R300). -/
def execRot1 (_bpp : BitVec 4) (s : State) : Result := s.rotate (fun x y => (y, s.he - 1 - x))

/-- ROT2: `IMG[y · W + x] <- WORK[He − 1 − y][We − 1 − x]` (46_unpack_render.md R301). -/
def execRot2 (_bpp : BitVec 4) (s : State) : Result := s.rotate (fun x y => (s.we - 1 - x, s.he - 1 - y))

/-- ROT3: `IMG[y · W + x] <- WORK[x][We − 1 − y]` (46_unpack_render.md R302). -/
def execRot3 (_bpp : BitVec 4) (s : State) : Result := s.rotate (fun x y => (s.we - 1 - y, x))

end Sys2Proof.Machine
end

