-- ==== Sys2Proof/Machine/HostOps.lean ====
section
/-!
DEFINITION. The host operations (47_host_operations.md): the meanings of CTRL.SETOP and START, and of the operations a START
launches.
-/

namespace Sys2Proof.Machine

/-! ## CTRL writes -/

/-- CTRL.SETOP: a CTRL write with bit 8 clear only stores OP (47_host_operations.md R356); while BUSY it is refused like every
host write (70_reset_and_hazards.md R403). -/
def execCtrlSetop (op : BitVec 3) (s : State) : Result :=
  if s.busy then .refused .writeBusy else .next (s.setRegs (fun g => { g with op := op }))

/-- START: OP is stored and the start sequence runs; the operation is then the engine's (47_host_operations.md R341, R342;
assumption 1). While BUSY it is refused (70_reset_and_hazards.md R405). -/
def execStart (op : BitVec 3) (s : State) : Result :=
  if s.busy then .refused .startBusy
  else .next (s.setRegs (fun g => { g with op := op })).startSequence

/-! ## Operations -/

/-- The transition of a launched operation: the configuration check, then its body or the configuration error
(47_host_operations.md R341, R343, R344). Where the operation was not launched it has no meaning (assumption 9). -/
def State.runOperation (op : BitVec 3) (body : State → State) (s : State) : Result :=
  if s.engine = .launched ∧ s.regs.op = op then
    (if s.configOk op then .next (body s) else .next s.cfgError)
  else .refused .outOfContext

/-- NOP: nothing, and complete (47_host_operations.md R345). -/
def execNop (s : State) : Result := s.runOperation 0 State.complete

/-- The start of DECODE's body: NEXT_PLANE and the plane buffers cleared, the framer at the start of the stream
(47_host_operations.md R346; 45_assembler.md R271; 44_framer.md R241). -/
def State.beginDecode (s : State) : State :=
  ((s.setNextPlane 0).zeroPb 0 (s.np * s.psize)).setEngine (.framing 0)

/-- DECODE (47_host_operations.md R346); the framer's steps that follow end in completion. -/
def execDecode (s : State) : Result := s.runOperation 1 State.beginDecode

/-- RENDER (47_host_operations.md R347; 46_unpack_render.md R290). -/
def execRender (s : State) : Result := s.runOperation 2 State.beginRender

/-- DECODE_RENDER: the body of DECODE, then that of RENDER (47_host_operations.md R348). -/
def execDecodeRender (s : State) : Result := s.runOperation 3 State.beginDecode

/-- The start of the G5 operation: a decode of IN[0 .. IN_LEN−1] to at most EXPLEN bytes (47_host_operations.md R349). -/
def State.beginG5 (s : State) : State :=
  s.setEngine (.g5 .standalone (G5Run.begin (s.inBytes 0 s.regs.inLen.toNat) s.regs.expLen.toNat))

/-- G5 (47_host_operations.md R349). -/
def execG5 (s : State) : Result := s.runOperation 4 State.beginG5

/-- OP.RSV5: the configuration check fails, CFG_ERR (47_host_operations.md R352). -/
def execOpRsv5 (s : State) : Result := s.runOperation 5 State.complete

/-- OP.RSV6 (47_host_operations.md R352). -/
def execOpRsv6 (s : State) : Result := s.runOperation 6 State.complete

/-- OP.RSV7 (47_host_operations.md R352). -/
def execOpRsv7 (s : State) : Result := s.runOperation 7 State.complete

end Sys2Proof.Machine
end

