-- ==== Sys2Proof/Machine/Dispatch.lean ====
section
/-!
DEFINITION. One arm per instruction: each is a direct call of its meaning.
-/

namespace Sys2Proof.Machine

/-- The meaning of an instruction. -/
def exec (i : Instr) (s : State) : Host.Outcome State Fault Refusal :=
  match i with
  | .lit n => Sys2Proof.Machine.execLit n s
  | .runB ab n => Sys2Proof.Machine.execRunB ab n s
  | .runW ab n => Sys2Proof.Machine.execRunW ab n s
  | .frame len => Sys2Proof.Machine.execFrame len s
  | .payZlib7801 => Sys2Proof.Machine.execPayZlib7801 s
  | .payZlib789C => Sys2Proof.Machine.execPayZlib789C s
  | .payZlib78DA => Sys2Proof.Machine.execPayZlib78DA s
  | .payShort => Sys2Proof.Machine.execPayShort s
  | .payG5 startRow rowCount fmt flags => Sys2Proof.Machine.execPayG5 startRow rowCount fmt flags s
  | .payRaw startRow rowCount fmt flags => Sys2Proof.Machine.execPayRaw startRow rowCount fmt flags s
  | .dflStored final => Sys2Proof.Machine.execDflStored final s
  | .dflFixed final => Sys2Proof.Machine.execDflFixed final s
  | .dflDynamic final => Sys2Proof.Machine.execDflDynamic final s
  | .dflBtype3 final => Sys2Proof.Machine.execDflBtype3 final s
  | .dflLit sym => Sys2Proof.Machine.execDflLit sym s
  | .dflEob => Sys2Proof.Machine.execDflEob s
  | .dflLen sym => Sys2Proof.Machine.execDflLen sym s
  | .dflLenRsv sym => Sys2Proof.Machine.execDflLenRsv sym s
  | .dflDist sym => Sys2Proof.Machine.execDflDist sym s
  | .dflDistRsv sym => Sys2Proof.Machine.execDflDistRsv sym s
  | .dflClLen sym => Sys2Proof.Machine.execDflClLen sym s
  | .dflClRep16 => Sys2Proof.Machine.execDflClRep16 s
  | .dflClRep17 => Sys2Proof.Machine.execDflClRep17 s
  | .dflClRep18 => Sys2Proof.Machine.execDflClRep18 s
  | .ctrlSetop op => Sys2Proof.Machine.execCtrlSetop op s
  | .start op => Sys2Proof.Machine.execStart op s
  | .nop => Sys2Proof.Machine.execNop s
  | .decode => Sys2Proof.Machine.execDecode s
  | .render => Sys2Proof.Machine.execRender s
  | .decodeRender => Sys2Proof.Machine.execDecodeRender s
  | .g5 => Sys2Proof.Machine.execG5 s
  | .opRsv5 => Sys2Proof.Machine.execOpRsv5 s
  | .opRsv6 => Sys2Proof.Machine.execOpRsv6 s
  | .opRsv7 => Sys2Proof.Machine.execOpRsv7 s
  | .planeRead bpp => Sys2Proof.Machine.execPlaneRead bpp s
  | .indexExtract bpp => Sys2Proof.Machine.execIndexExtract bpp s
  | .rot0 bpp => Sys2Proof.Machine.execRot0 bpp s
  | .rot1 bpp => Sys2Proof.Machine.execRot1 bpp s
  | .rot2 bpp => Sys2Proof.Machine.execRot2 bpp s
  | .rot3 bpp => Sys2Proof.Machine.execRot3 bpp s

end Sys2Proof.Machine
end

