-- ==== Sys2Proof/Machine/Fetch.lean ====
section
/-!
DEFINITION. What the engine does next: the instruction its working unit reads, and the transitions that are no instruction.
-/

namespace Sys2Proof.Machine

/-- The format the working unit reads next; nothing where no instruction is to be read. -/
def State.context (s : State) : Option Format :=
  match s.engine with
  | .idle => none
  | .launched => some .ctrlLaunch
  | .framing fpos => if s.streamLeft fpos < 4 then none else some .stream
  | .resolving _ _ => some .payload
  | .g5 _ g => if g.running then some .g5Cmd else none
  | .inflating _ z => z.context
  | .dispatching _ _ => none
  | .drawing x y _ => if x < s.we ∧ y < s.he then some .fmtPixel else none
  | .rotating _ => some .fmtRotate

/-- The next instruction, and the state it is executed in: the same, but for the bit reader, which stands behind the bits of
the block header or symbol (43_inflate.md R191, R206). -/
def State.fetch (s : State) : Option (Instr × State) :=
  match s.engine with
  | .idle => none
  | .launched => some (decodeOp s.regs.op, s)
  | .framing fpos =>
    if s.streamLeft fpos < 4 then none else some (.frame (u32le (s.inBytes fpos 4) 0), s)
  | .resolving _ p => some (decodePayload p, s)
  | .g5 _ g => if g.running then some (decodeG5 (byteAt g.src g.gpos), s) else none
  | .inflating fpos z => z.fetch.map (fun r => (r.1, s.setEngine (.inflating fpos r.2)))
  | .dispatching _ _ => none
  | .drawing x y _ =>
    if x < s.we ∧ y < s.he then (decodePixel s.regs.bpp).toOption.map (fun i => (i, s)) else none
  | .rotating _ => some (decodeRotate s.regs.rot s.regs.bpp, s)

/-- The engine's transition where no instruction is to be read. In IDLE it does nothing (60_exceptions.md R382). -/
def State.tau (s : State) : Result :=
  match s.engine with
  | .framing fpos => .next (s.endOfStream fpos)
  | .g5 job g => s.finishG5 job g
  | .inflating fpos z => .next (s.inflateTau fpos z)
  | .dispatching fpos d => s.dispatch fpos d
  | .drawing x y work =>
    if x < s.we ∧ y < s.he then .fault .formatRange else .next (s.setEngine (.rotating work))
  | _ => .next s

/-- One step of the engine. -/
def engineStep (s : State) : Result :=
  match s.fetch with
  | some (i, t) => exec i t
  | none => s.tau

/-- `k` engine steps, up to the first stop; in IDLE they change nothing. -/
def engineRun : Nat → State → Result
  | 0, s => .next s
  | k + 1, s => andThen (engineStep s) (engineRun k)

end Sys2Proof.Machine
end

