-- ==== Sys2Proof/Machine/HostBus.lean ====
section
/-!
DEFINITION. The host's accesses (20_memory.md R74, R75, R77, R81; 70_reset_and_hazards.md R403, R404). An illegal access is
refused before the phase is looked at (assumption 12).
-/

namespace Sys2Proof.Machine

/-- A register read: STATUS while BUSY reads 0x0000_0001 (assumption 8), any other register while BUSY any value
(70_reset_and_hazards.md R404). -/
def State.hostRegRead (r : RegName) (s : State) : State :=
  if s.busy then
    if r = .status then s.respond (.word busyBit)
    else (s.respond (.word (Config.busyWord s.freeIx))).drawn
  else s.respond (.word (s.regRead r))

/-- A register write: refused while BUSY; a write of CTRL is the instruction its value encodes (10_state.md R24). -/
def State.hostRegWrite (r : RegName) (v : Word) (s : State) : Result :=
  if r = .ctrl then exec (decodeCtrlWrite v) s
  else if s.busy then .refused .writeBusy
  else .next (s.regWrite r v)

/-- A byte read of IN, whose contents the engine never changes (70_reset_and_hazards.md R404). -/
def State.hostInRead (a : Nat) (s : State) : Result :=
  if s.caps.inCap ≤ a then .refused .memAccess else .next (s.respond (.byte (s.inByte a)))

/-- A byte write of IN. -/
def State.hostInWrite (a : Nat) (v : Byte) (s : State) : Result :=
  if s.caps.inCap ≤ a then .refused .memAccess
  else if s.busy then .refused .writeBusy
  else .next (s.setInByte a v)

/-- A byte read of PB, any value while BUSY. -/
def State.hostPbRead (a : Nat) (s : State) : Result :=
  if s.caps.pbCap ≤ a then .refused .memAccess
  else if s.busy then .next (s.respond (.byte (Config.busyByte s.freeIx))).drawn
  else .next (s.respond (.byte (s.pbByte a)))

/-- A byte write of PB. -/
def State.hostPbWrite (a : Nat) (v : Byte) (s : State) : Result :=
  if s.caps.pbCap ≤ a then .refused .memAccess
  else if s.busy then .refused .writeBusy
  else .next (s.setPbBytes a [v])

/-- A word read of IMG, any value while BUSY. -/
def State.hostImgRead (a : Nat) (s : State) : Result :=
  if s.caps.imgCap ≤ a then .refused .memAccess
  else if s.busy then .next (s.respond (.word (Config.busyWord s.freeIx))).drawn
  else .next (s.respond (.word (s.imgWord a)))

/-- What a host action does. -/
def hostAct (a : HostAction) (s : State) : Result :=
  match a with
  | .regRead width off => if regAccessOk width off then .next (s.hostRegRead (regAt off)) else .refused .regAccess
  | .regWrite width off v => if regAccessOk width off then s.hostRegWrite (regAt off) v else .refused .regAccess
  | .inRead a => s.hostInRead a
  | .inWrite a v => s.hostInWrite a v
  | .pbRead a => s.hostPbRead a
  | .pbWrite a v => s.hostPbWrite a v
  | .imgRead a => s.hostImgRead a
  | .imgWrite _ _ => .refused .memAccess
  | .poll => .next (s.hostRegRead .status)
  | .reset inMem pbMem imgMem => .next (s.resetInput inMem pbMem imgMem)

/-- Whether an input lets the engine go first: while BUSY, an input with waiting left, and a poll (assumption 2). -/
def State.engineFirst (i : HostInput) (s : State) : Bool :=
  s.busy && (decide (0 < i.wait) || decide (i.action = .poll))

end Sys2Proof.Machine
end

