-- ==== Sys2Proof/Machine/Step.lean ====
section
/-!
DEFINITION. One step of the machine, and the placing of an instruction where the next step reads it.
-/

namespace Sys2Proof.Machine

/-- One step: the engine's, where there is no input or the next one lets the engine go first; else the next input's. -/
def step (s : State) : Host.Outcome State Fault Refusal :=
  match s.inputs with
  | [] => engineStep s
  | i :: rest =>
    if s.engineFirst i then engineStep (s.setInputs ({ i with wait := i.wait - 1 } :: rest))
    else hostAct i.action (s.setInputs rest)

/-- The longest instruction: a literal command with its 128 bytes. -/
def longestInstr : Nat := 129

/-- The state in which the next step reads a word of the opcode table (assumption 15): a G5 command byte stands at the start
of IN with zeros behind it and a G5 operation is about to read it; a payload has just been framed; a CTRL write without
START is the next host input; a CTRL value with START has launched its operation; a deflate block header is the next of an
inflate; a BPP stands in FMT while the first of 1 × 1 pixels is to be drawn; a length prefix is the whole stream, and the
framer stands before it; a rotation code stands in FMT with a finished grid of 1 × 1 pixels. -/
def State.withFetchWord (s : State) (nbits w : Nat) : State :=
  let b := tableBytes nbits w
  match tableFormat nbits w with
  | some .g5Cmd =>
    let src := b ++ List.replicate (longestInstr - 1) 0
    { s with
      regs := { s.regs with op := 4, inLen := BitVec.ofNat 32 longestInstr, expLen := 128 }
      inMem := Memory.write Config.unlistedByte s.inMem 0 src
      status := busyBit
      engine := .g5 .standalone (G5Run.begin src 128)
      inputs := [] }
  | some .payload =>
    { s with
      regs := { s.regs with op := 1 }
      status := busyBit
      engine := .resolving b.length b
      inputs := [] }
  | some .dflBlock =>
    { s with
      regs := { s.regs with op := 1 }
      status := busyBit
      engine := .inflating 0 (Inflate.begin ([0x78, 0x01] ++ b ++ List.replicate longestInstr 0))
      inputs := [] }
  | some .ctrlWrite => { s with inputs := { wait := 0, action := .regWrite 32 0 (u32le b 0) } :: s.inputs }
  | some .ctrlLaunch =>
    { s with
      regs := { s.regs with op := (u32le b 0).extractLsb' 0 3 }
      status := busyBit
      engine := .launched
      inputs := [] }
  | some .fmtPixel =>
    { s with
      regs := { s.regs with op := 2, width := 1, height := 1, bpp := (u32le b 0).extractLsb' 0 4 }
      status := busyBit
      engine := .drawing 0 0 []
      inputs := [] }
  | some .stream =>
    { s with
      regs := { s.regs with op := 1, inLen := 4 }
      inMem := Memory.write Config.unlistedByte s.inMem 0 b
      status := busyBit
      engine := .framing 0
      inputs := [] }
  | some .fmtRotate =>
    { s with
      regs := { s.regs with op := 2, width := 1, height := 1, bpp := (u32le b 0).extractLsb' 0 4, rot := (u32le b 0).extractLsb' 8 2 }
      status := busyBit
      engine := .rotating []
      inputs := [] }
  | _ => s

end Sys2Proof.Machine
end

