-- ==== Sys2Proof/Machine/Asm.lean ====
section
/-!
DEFINITION. The assembler syntax (30_encoding.md R124–R128): every directive as the bytes it emits, every host instruction as
the inputs it stands for.
-/

namespace Sys2Proof.Machine

/-! ## Streams (30_encoding.md R124, R125) -/

/-- `block.len L` … `endblock`: a given length prefix before the content. -/
def asmBlockLen (len : Word) (content : Bytes) : Bytes := bytes32le len ++ content

/-- `block` … `endblock`. -/
def asmBlock (content : Bytes) : Bytes := asmBlockLen (BitVec.ofNat 32 content.length) content

/-- The successive chunks of up to 65535 bytes, one empty chunk for the empty content; `k` bounds the number of cuts. -/
def storedChunks : Nat → Bytes → List Bytes
  | 0, c => [c]
  | k + 1, c => if c.length ≤ 65535 then [c] else c.take 65535 :: storedChunks k (c.drop 65535)

/-- One stored deflate block: 0x01 where it is the last, 0x00 else, LEN, NLEN, the chunk. -/
def storedBlockBytes (last : Bool) (c : Bytes) : Bytes :=
  [if last then 0x01 else 0x00] ++ bytes16le (BitVec.ofNat 16 c.length) ++
    bytes16le (BitVec.ofNat 16 (c.length ^^^ 0xFFFF)) ++ c

/-- The stored blocks of chunks, the last one marked. -/
def storedBlocks : List Bytes → Bytes
  | [] => []
  | [c] => storedBlockBytes true c
  | c :: cs => storedBlockBytes false c ++ storedBlocks cs

/-- `zlib.stored` … `endzlib`. -/
def asmZlibStored (c : Bytes) : Bytes :=
  [0x78, 0x01] ++ storedBlocks (storedChunks c.length c) ++ bytes32be (BitVec.ofNat 32 (adler32 c))

/-! ## G5 strings (30_encoding.md R126, R127) -/

/-- `run.b n, a`, 1 ≤ n ≤ 16. -/
def asmRunB (n : Nat) (ab : BitVec 2) : Bytes := encode (.runB ab (BitVec.ofNat 4 (n - 1)))

/-- `run.w n, a`, 1 ≤ n ≤ 16. -/
def asmRunW (n : Nat) (ab : BitVec 2) : Bytes := encode (.runW ab (BitVec.ofNat 4 (n - 1)))

/-- `lit.decl n; b1, …, bm`; with n = m it is `lit`, 1 ≤ n ≤ 128. -/
def asmLitDecl (n : Nat) (b : Bytes) : Bytes := encode (.lit (BitVec.ofNat 7 (n - 1))) ++ b

/-- `lit b1, …, bn`, 1 ≤ n ≤ 128. -/
def asmLit (b : Bytes) : Bytes := asmLitDecl b.length b

/-- `fill.b n`, n ≥ 1. -/
def asmFillB (n : Nat) : Bytes :=
  (List.replicate (n / 16) (asmRunB 16 0)).flatten ++ (if n % 16 = 0 then [] else asmRunB (n % 16) 0)

/-- `fill.w n`, n ≥ 1. -/
def asmFillW (n : Nat) : Bytes :=
  (List.replicate (n / 16) (asmRunW 16 0)).flatten ++ (if n % 16 = 0 then [] else asmRunW (n % 16) 0)

/-- Literals over successive chunks of 128 bytes; `k` bounds their number. -/
def litChunks : Nat → Bytes → Bytes
  | 0, _ => []
  | k + 1, b => if b.length ≤ 128 then asmLit b else asmLit (b.take 128) ++ litChunks k (b.drop 128)

/-- `bytes b1, …, bn`, n ≥ 1. -/
def asmBytes (b : Bytes) : Bytes := litChunks b.length b

/-! ## Host programs (30_encoding.md R128) -/

/-- An input that waits for nothing. -/
def now (a : HostAction) : HostInput := { wait := 0, action := a }

/-- `wr REG, v`, by the register's offset. -/
def asmWr (off : Nat) (v : Word) : List HostInput := [now (.regWrite 32 off v)]

/-- `rd REG`. -/
def asmRd (off : Nat) : List HostInput := [now (.regRead 32 off)]

/-- `wrin a, b1, …`. -/
def asmWrin : Nat → Bytes → List HostInput
  | _, [] => []
  | a, b :: bs => now (.inWrite a b) :: asmWrin (a + 1) bs

/-- `wrpb a, b1, …`. -/
def asmWrpb : Nat → Bytes → List HostInput
  | _, [] => []
  | a, b :: bs => now (.pbWrite a b) :: asmWrpb (a + 1) bs

/-- `rdpb a, n`. -/
def asmRdpb (a n : Nat) : List HostInput := (List.range n).map (fun k => now (.pbRead (a + k)))

/-- `rdimg i, n`. -/
def asmRdimg (i n : Nat) : List HostInput := (List.range n).map (fun k => now (.imgRead (i + k)))

/-- `wrct i, tag, rgb`. -/
def asmWrct (i : Nat) (tag : BitVec 2) (rgb : Rgb) : List HostInput :=
  asmWr (Config.ctBase + 4 * i) (0#6 ++ (tag ++ rgb))

/-- `start OP`. -/
def asmStart (op : BitVec 3) : List HostInput := asmWr 0x000 (ctrlWord true op)

/-- `poll`. -/
def asmPoll : List HostInput := [now .poll]

end Sys2Proof.Machine
end

