-- ==== Sys2Proof/Machine/Operation.lean ====
section
/-!
DEFINITION. A whole operation as ONE transition, written from the spec's pseudocode function by function: inflate (43_inflate.md
R191), resolve (42_resolver.md R171), frameAll (44_framer.md R241), render (46_unpack_render.md R290) and the operation of a
START (47_host_operations.md R341). `step` does not use it; it is the other reading of the same rules, and what the engine's
steps add up to (assumption 1).
-/

namespace Sys2Proof.Machine

/-! ## inflate -/

/-- The length a symbol 257..285 stands for (43_inflate.md R209). -/
def readLength (sym : Nat) (r : BitReader) : Except InflateFail (Nat × BitReader) :=
  match lengthTable[sym - 257]? with
  | some (base, ext) => do
    let (e, r) ← r.bits ext
    return (base + e, r)
  | none => .error .badLenSym

/-- The distance a symbol 0..29 stands for (43_inflate.md R211). -/
def readDistance (sym : Nat) (r : BitReader) : Except InflateFail (Nat × BitReader) :=
  match distTable[sym]? with
  | some (base, ext) => do
    let (e, r) ← r.bits ext
    return (base + e, r)
  | none => .error .badDistSym

/-- `huffmanBlock` (43_inflate.md R206–R213), at most `k` symbols. -/
def huffmanBlock (lit dist : HuffCode) : Nat → BitReader → Bytes → Except InflateFail (BitReader × Bytes)
  | 0, _, _ => .error .trunc
  | k + 1, r, out => do
    let (s, r) ← lit.decode r
    if s ≤ 255 then huffmanBlock lit dist k r (out ++ [BitVec.ofNat 8 s])
    else if s = 256 then return (r, out)
    else if s ≤ 285 then do
      let (len, r) ← readLength s r
      let (ds, r) ← dist.decode r
      if ds ≤ 29 then do
        let (d, r) ← readDistance ds r
        if out.length < d then .error .far else huffmanBlock lit dist k r (copyBack d len out)
      else .error .badDistSym
    else .error .badLenSym

/-- `storedBlock` (43_inflate.md R196). -/
def storedBlock (r : BitReader) (out : Bytes) : Except InflateFail (BitReader × Bytes) := do
  let (h, r) ← r.align.bytes 4
  let len := (u16le h 0).toNat
  if (u16le h 2).toNat ≠ len ^^^ 0xFFFF then .error .nlen
  else do
    let (d, r) ← r.bytes len
    return (r, out ++ d)

/-- The code lengths one code-length symbol stands for, with `lens` read so far (43_inflate.md R203). -/
def readClSymbol (sym : Nat) (lens : List Nat) (r : BitReader) : Except InflateFail (List Nat × BitReader) :=
  if sym ≤ 15 then .ok ([sym], r)
  else if sym = 16 then
    match lens.getLast? with
    | none => .error .repeatNoPrev
    | some l => do
      let (n, r) ← r.bits 2
      return (List.replicate (3 + n) l, r)
  else if sym = 17 then do
    let (n, r) ← r.bits 3
    return (List.replicate (3 + n) 0, r)
  else if sym = 18 then do
    let (n, r) ← r.bits 7
    return (List.replicate (11 + n) 0, r)
  else .error .badCode

/-- The code lengths of a dynamic block (43_inflate.md R203), at most `k` symbols. -/
def readLengths (clt : HuffCode) (total : Nat) : Nat → List Nat → BitReader → Except InflateFail (List Nat × BitReader)
  | 0, _, _ => .error .trunc
  | k + 1, lens, r =>
    if lens.length < total then do
      let (s, r) ← clt.decode r
      let (more, r) ← readClSymbol s lens r
      if total < (lens ++ more).length then .error .repeatOverflow else readLengths clt total k (lens ++ more) r
    else .ok (lens, r)

/-- `dynamicTables` (43_inflate.md R200–R205). -/
def dynamicTables (r : BitReader) : Except InflateFail (HuffCode × HuffCode × BitReader) := do
  let (hlit, r) ← r.bits 5
  let (hdist, r) ← r.bits 5
  let (hclen, r) ← r.bits 4
  let nlit := hlit + 257
  let ndist := hdist + 1
  if 286 < nlit ∨ 30 < ndist then .error .tooMany
  else do
    let (cl, r) ← readClLengths (clOrder.take (hclen + 4)) (List.replicate 19 0) r
    let clt ← buildCode cl .cl
    let (lens, r) ← readLengths clt (nlit + ndist) (nlit + ndist + 1) [] r
    if lens.getD 256 0 = 0 then .error .noEob
    else do
      let lit ← buildCode (lens.take nlit) .lit
      let dist ← buildCode ((lens.drop nlit).take ndist) .dist
      return (lit, dist, r)

/-- The block loop of `inflate` (43_inflate.md R191), at most `k` blocks of at most `n` symbols. -/
def inflateBlocks (n : Nat) : Nat → BitReader → Bytes → Except InflateFail (BitReader × Bytes)
  | 0, _, _ => .error .trunc
  | k + 1, r, out => do
    let (bfinal, r) ← r.bits 1
    let (btype, r) ← r.bits 2
    let (r, out) ←
      if btype = 0 then storedBlock r out
      else if btype = 1 then huffmanBlock fixedLit fixedDist n r out
      else if btype = 2 then do
        let (lit, dist, r) ← dynamicTables r
        huffmanBlock lit dist n r out
      else .error .btype
    if bfinal = 1 then return (r, out) else inflateBlocks n k r out

/-- `inflate(p)` (43_inflate.md R191). Every block header and every symbol takes at least one bit (43_inflate.md R219), so
`8 · len(p) + 1` rounds are enough. -/
def inflate (p : Bytes) : Except InflateFail Bytes := do
  let (r, out) ← inflateBlocks (8 * p.length + 1) (8 * p.length + 1) (BitReader.begin p) []
  let (h, _) ← r.align.bytes 4
  if (u32be h 0).toNat ≠ adler32 out then .error .adler else return out

/-! ## resolve, frameAll -/

/-- The class of a payload (42_resolver.md R170). -/
inductive PayloadClass where
  | zlib (d : Bytes)
  | zfail
  | short
  | g5 (d : Bytes)
  | raw (d : Bytes)
deriving DecidableEq, Repr

/-- `p` is a zlib payload (30_encoding.md R106). -/
def isZlib (p : Bytes) : Bool := zlibMagic p 0x01 || zlibMagic p 0x9C || zlibMagic p 0xDA

/-- `resolve(p)` with its counters and events (42_resolver.md R171–R177). -/
def State.resolve (p : Bytes) (s : State) : PayloadClass × State :=
  if isZlib p then
    match inflate p with
    | .ok d => (.zlib d, s.count Counters.incZlib)
    | .error _ => (.zfail, (s.count Counters.incZfail).raise .zfail)
  else if p.length < 6 then (.short, (s.count Counters.incSkipped).raise .short)
  else if (byteAt p 4).getLsbD 0 then
    let g := g5Decode (slice p 6 p.length) (rowCountOf p * s.bpr)
    (.g5 (slice p 0 6 ++ g.out), (s.recordG5 g).count Counters.incG5)
  else (.raw p, s.count Counters.incRaw)

/-- The block bytes of a class (44_framer.md R244). -/
def PayloadClass.bytes : PayloadClass → Option Bytes
  | .zlib d => some d
  | .zfail => none
  | .short => none
  | .g5 d => some d
  | .raw d => some d

/-- `dispatch(r)` (44_framer.md R244). -/
def State.dispatchClass (r : PayloadClass × State) : Result :=
  match r.1.bytes with
  | none => .next r.2
  | some d =>
    if d.length < 6 then .next ((r.2.count Counters.incSkipped).raise .short) else r.2.assemble d

/-- `frameAll()` from cursor `fpos` on (44_framer.md R241), at most `k` frames. -/
def State.frameAll : Nat → Nat → State → Result
  | 0, _, s => .next s
  | k + 1, fpos, s =>
    if 4 ≤ s.streamLeft fpos then
      let len := u32le (s.inBytes fpos 4) 0
      let n := s.frameLength len fpos
      let t := (s.raiseIf (decide (s.streamLeft (fpos + 4) < len.toNat)) .trunc).count Counters.incBlocks
      andThen (State.dispatchClass (t.resolve (s.inBytes (fpos + 4) n))) (State.frameAll k (fpos + 4 + n))
    else .next (s.raiseIf (decide (0 < s.streamLeft fpos)) .tail)

/-- The body of DECODE (47_host_operations.md R346). -/
def State.decodeBody (s : State) : Result :=
  State.frameAll (s.regs.inLen.toNat / 4 + 1) 0 ((s.setNextPlane 0).zeroPb 0 (s.np * s.psize))

/-! ## render -/

/-- One pixel of `render()`: its colour and the events of finding it (46_unpack_render.md R290). -/
def State.pixel (x y : Nat) (s : State) : Rgb × State :=
  if s.b ≤ 2 then
    s.lookupKey (classify (s.planeBit 0 x y) (decide (s.b = 2) && s.planeBit s.psize x y))
  else
    let idx := s.pixelIndex s.b x y
    if idx < s.n then (s.ctRgb idx, s) else (Config.white, s.raise .idxoor)

/-- The work grid after the pixels of a list, in its order. -/
def State.drawAll : List (Nat × Nat) → Memory 24 → State → Memory 24 × State
  | [], work, s => (work, s)
  | (x, y) :: ps, work, s =>
    State.drawAll ps (Memory.write Config.white work (s.workIndex x y) [(s.pixel x y).1]) (s.pixel x y).2

/-- Every pixel of the work grid, row after row. -/
def State.allPixels (s : State) : List (Nat × Nat) :=
  (List.range s.he).flatMap (fun y => (List.range s.we).map (fun x => (x, y)))

/-- The work-grid column and row image pixel (x, y) is taken from (46_unpack_render.md R299–R302). -/
def State.rotSource (s : State) (x y : Nat) : Nat × Nat :=
  match s.regs.rot.toNat with
  | 0 => (x, y)
  | 1 => (y, s.he - 1 - x)
  | 2 => (s.we - 1 - x, s.he - 1 - y)
  | _ => (s.we - 1 - y, x)

/-- `render()` (46_unpack_render.md R290). -/
def State.renderBody (s : State) : Result :=
  let r := State.drawAll s.allPixels [] s
  r.2.engineImgWrite 0 (r.2.imageWords r.2.rotSource r.1)

/-- The body of G5 (47_host_operations.md R349). -/
def State.g5Body (s : State) : Result :=
  let g := g5Decode (s.inBytes 0 s.regs.inLen.toNat) s.regs.expLen.toNat
  (s.recordG5 g).enginePbWrite 0 g.out

/-! ## The operation -/

/-- The operation CTRL.OP with its check and its completion, as one transition (47_host_operations.md R341, R343–R350). -/
def State.operation (s : State) : Result :=
  if s.configOk s.regs.op then
    andThen
      (match s.regs.op.toNat with
       | 1 => s.decodeBody
       | 2 => s.renderBody
       | 3 => andThen s.decodeBody State.renderBody
       | 4 => s.g5Body
       | _ => .next s)
      (fun t => .next t.complete)
  else .next s.cfgError

end Sys2Proof.Machine
end

