-- ==== Sys2Proof/Safety.lean ====
section
/-!
DEFINITION. What the statements are made of: what it means that a step leaves something unchanged, and what counts as a good
state, the facts the rules take for granted of any state a run reaches.
-/

namespace Sys2Proof.Machine

/-! ## Frames -/

/-- Every register but those of a list reads back as before (10_state.md R22), and so do the capacities. -/
def State.sameRegistersBut (changed : List RegName) (s t : State) : Prop :=
  t.caps = s.caps ∧ ∀ r, r ∉ changed → t.regRead r = s.regRead r

/-- Every STATUS bit but those of a list is as before. -/
def State.sameStatusBut (changed : List Nat) (s t : State) : Prop :=
  ∀ k, k ∉ changed → t.status.getLsbD k = s.status.getLsbD k

/-- Every byte of IN and PB and every word of IMG reads as before. -/
def State.sameMemory (s t : State) : Prop :=
  (∀ a, t.inByte a = s.inByte a) ∧ (∀ a, t.pbByte a = s.pbByte a) ∧ ∀ a, t.imgWord a = s.imgWord a

/-- The model's own fields are as before: the host's inputs to come, what it has read, the free values drawn. -/
def State.sameHostSide (s t : State) : Prop :=
  t.inputs = s.inputs ∧ t.responses = s.responses ∧ t.freeIx = s.freeIx

/-- All that is left the same by an instruction that moves its unit on and does nothing else. -/
def State.sameButUnit (s t : State) : Prop :=
  s.sameRegistersBut [] t ∧ s.sameMemory t ∧ s.sameHostSide t

/-- What a rotation leaves: image word (x, y) is the work-grid pixel at row `row x y` and column `col x y`, bits 31:24 zero;
words at and above W · H, the other memories, every register but STATUS and the host's side are unchanged, and the operation
is complete (46_unpack_render.md R304; 47_host_operations.md R350). -/
def State.rotatesTo (s : State) (work : Memory 24) (row col : Nat → Nat → Nat) (t : State) : Prop :=
  (∀ x y, x < s.w → y < s.h →
    t.imgWord (y * s.w + x) = 0#8 ++ Memory.read Config.white work (row x y * s.we + col x y)) ∧
  (∀ a, s.w * s.h ≤ a → t.imgWord a = s.imgWord a) ∧
  (∀ a, t.inByte a = s.inByte a) ∧ (∀ a, t.pbByte a = s.pbByte a) ∧
  t.engine = .idle ∧ t.status = (s.status &&& 0xFFFFFFFE) ||| 0x2 ∧
  s.sameRegistersBut [.status] t ∧ s.sameHostSide t

/-- What reads are left by loading a list of entries into an empty memory of `n` units: an address below `n` reads as its last
entry, every other address, and one without an entry, as `d` (70_reset_and_hazards.md R400; assumptions 5 and 6). -/
def Memory.holdsLast {w : Nat} (d : BitVec w) (n : Nat) (cells : List (Nat × BitVec w)) (read : Nat → BitVec w) : Prop :=
  (∀ a v before after, cells = before ++ (a, v) :: after → (∀ c ∈ after, c.1 ≠ a) → a < n → read a = v) ∧
  (∀ a, n ≤ a ∨ (∀ c ∈ cells, c.1 ≠ a) → read a = d)

/-! ## The invariant -/

/-- A decoding operation is under way, its configuration accepted (47_host_operations.md R343, R346, R348). -/
def State.decoding (s : State) : Prop := (s.regs.op = 1 ∨ s.regs.op = 3) ∧ s.configOk s.regs.op = true

/-- A rendering operation is under way, its configuration accepted (47_host_operations.md R343, R347, R348). -/
def State.rendering (s : State) : Prop := (s.regs.op = 2 ∨ s.regs.op = 3) ∧ s.configOk s.regs.op = true

/-- The framer's cursor is inside the stream (20_memory.md R76). -/
def State.cursorOk (fpos : Nat) (s : State) : Prop := s.decoding ∧ fpos ≤ s.regs.inLen.toNat

/-- A work grid of We × He pixels, in canonical form (10_state.md R43). -/
def State.gridOk (work : Memory 24) (s : State) : Prop :=
  Memory.wf Config.white work ∧ Memory.below work (s.we * s.he)

/-- A G5 decode never holds more than it may emit (41_g5.md R146), and belongs to a job under way. -/
def State.g5Ok (job : G5Job) (g : G5Run) (s : State) : Prop :=
  g.out.length ≤ g.exp ∧
  match job with
  | .standalone =>
    s.regs.op = 4 ∧ s.configOk 4 = true ∧ g.src = s.inBytes 0 s.regs.inLen.toNat ∧ g.exp = s.regs.expLen.toNat
  | .block fpos header => s.cursorOk fpos ∧ header.length = 6 ∧ g.exp = rowCountOf header * s.bpr

/-- The length codes read so far, and the announced number of them (43_inflate.md R200, R203). -/
def InflateMode.ok : InflateMode → Prop
  | .header => True
  | .lengths nlit ndist _ lens =>
    257 ≤ nlit ∧ nlit ≤ 286 ∧ 1 ≤ ndist ∧ ndist ≤ 30 ∧ lens.length ≤ nlit + ndist
  | .body _ _ => True
  | .distance _ _ len => 3 ≤ len ∧ len ≤ 258
  | .trailer => True

/-- The bit offset is 0..7, and the running sums are those of the bytes produced (10_state.md R47; 43_inflate.md R193,
R216). -/
def Inflate.ok (z : Inflate) : Prop := z.br.t < 8 ∧ z.adler = AdlerSums.begin.feed z.out ∧ z.mode.ok

/-- What each phase of the engine keeps. -/
def State.engineOk (s : State) : Prop :=
  match s.engine with
  | .idle => True
  | .launched => s.status = busyBit ∧ s.cnt = Counters.zero ∧ s.g5Out = 0 ∧ s.g5In = 0
  | .framing fpos => s.cursorOk fpos
  | .resolving fpos p => s.cursorOk fpos ∧ p.length + 4 ≤ fpos
  | .g5 job g => s.g5Ok job g
  | .inflating fpos z => s.cursorOk fpos ∧ z.ok
  | .dispatching fpos _ => s.cursorOk fpos
  | .drawing x y work => s.rendering ∧ s.gridOk work ∧ ((x < s.we ∧ y < s.he) ∨ (x = 0 ∧ y = s.he))
  | .rotating work => s.rendering ∧ s.gridOk work

/-- The memories and the colour table are in canonical form and hold nothing outside their spaces (20_memory.md R70). -/
structure State.MemoriesOk (s : State) : Prop where
  ctWf     : Memory.wf Config.unlistedEntry s.ct
  ctBelow  : Memory.below s.ct Config.ctMax
  inWf     : Memory.wf Config.unlistedByte s.inMem
  inBelow  : Memory.below s.inMem s.caps.inCap
  pbWf     : Memory.wf Config.unlistedByte s.pbMem
  pbBelow  : Memory.below s.pbMem s.caps.pbCap
  imgWf    : Memory.wf Config.unlistedWord s.imgMem
  imgBelow : Memory.below s.imgMem s.caps.imgCap

/-- The invariant of every state a run reaches. -/
structure State.Inv (s : State) : Prop where
  /-- the capacities are admitted ones (00_scope.md R6) -/
  caps      : s.caps.wf
  memories  : s.MemoriesOk
  /-- STATUS bits 31:13 and 9 read 0 (10_state.md R23; 41_g5.md R151) -/
  reserved  : s.status &&& statusReserved = 0
  /-- STATUS.BUSY reads 1 exactly in BUSY (10_state.md R45) -/
  busyFlag  : s.status.getLsbD 0 = s.busy
  /-- while BUSY, DONE is 0 (10_state.md R23) -/
  doneFlag  : s.busy = true → s.status.getLsbD 1 = false
  /-- NEXT_PLANE stays 0 (45_assembler.md R263) -/
  nextPlane : s.nextPlane = 0
  engine    : s.engineOk

end Sys2Proof.Machine
end

