-- ==== Sys2Proof/Certificates/Slice0/Obligations.lean ====
section
/-!
DEFINITION. The statements for the provers. Every docstring names the rule of spec/ a statement formalises; where a rule is the
spec's own decision or general knowledge, or the shape is the model's (notes/assumptions), it says so.
-/

open Sys2Proof Sys2Proof.Machine

/-! ## Encodings -/

/-- Decoding the encoding of a well-formed instruction, in the format it is read in, gives the instruction back, with every
operand at every value its field admits (30_encoding.md). -/
def Obligations.DecodeEncodeRoundTrip : Prop :=
  ∀ i : Instr, i.wf = true → decode (formatOf i) (encode i) = .ok i

/-- Whatever bytes decode to is a well-formed instruction of the format that was read. -/
def Obligations.DecodedInstructionIsWellFormed : Prop :=
  ∀ (f : Format) (b : Bytes) (i : Instr), decode f b = .ok i → i.wf = true ∧ formatOf i = f

/-- Every one of the 256 command bytes is one command (30_encoding.md R107, R119), with the fields of R108 and R109, and no
bit of it is lost. -/
def Obligations.EveryByteIsOneG5Command : Prop :=
  ∀ c : Byte,
    (c.toNat < 0x80 → decodeG5 c = .lit (BitVec.ofNat 7 c.toNat)) ∧
    (0x80 ≤ c.toNat → c.toNat < 0xC0 →
      decodeG5 c = .runB (BitVec.ofNat 2 (c.toNat / 16)) (BitVec.ofNat 4 c.toNat)) ∧
    (0xC0 ≤ c.toNat → decodeG5 c = .runW (BitVec.ofNat 2 (c.toNat / 16)) (BitVec.ofNat 4 c.toNat)) ∧
    encode (decodeG5 c) = [c]

/-- The class of a payload, tested in the order of 42_resolver.md R171, with the header fields little-endian
(30_encoding.md R102). -/
def Obligations.PayloadClassifiedInOrder : Prop :=
  ∀ p : Bytes,
    let magic (flg : Byte) : Prop := 2 ≤ p.length ∧ p[0]? = some 0x78 ∧ p[1]? = some flg
    (magic 0x01 → decodePayload p = .payZlib7801) ∧
    (magic 0x9C → decodePayload p = .payZlib789C) ∧
    (magic 0xDA → decodePayload p = .payZlib78DA) ∧
    (¬ magic 0x01 → ¬ magic 0x9C → ¬ magic 0xDA →
      (p.length < 6 → decodePayload p = .payShort) ∧
      ∀ (r0 r1 c0 c1 format flags : Byte) (data : Bytes), p = r0 :: r1 :: c0 :: c1 :: format :: flags :: data →
        (format.getLsbD 0 = true →
          decodePayload p = .payG5 (r1 ++ r0) (c1 ++ c0) (format.extractLsb' 1 7) flags) ∧
        (format.getLsbD 0 = false →
          decodePayload p = .payRaw (r1 ++ r0) (c1 ++ c0) (format.extractLsb' 1 7) flags))

/-- Words written out from the spec's encodings decode to the instructions they stand for: the examples of 41_g5.md
R142–R144, 44_framer.md R242, 42_resolver.md R172, R175, R177, 43_inflate.md R214 and 47_host_operations.md R341. A sanity
statement. -/
def Obligations.SampleWordsDecode : Prop :=
  decode .g5Cmd [0x83] = .ok (.runB 0 3) ∧
  decode .g5Cmd [0xCF] = .ok (.runW 0 15) ∧
  decode .g5Cmd [0xFF] = .ok (.runW 3 15) ∧
  decode .g5Cmd [0x07] = .ok (.lit 7) ∧
  decode .stream [0x0E, 0x00, 0x00, 0x00] = .ok (.frame 14) ∧
  decode .payload [0x78, 0xDA, 0x63] = .ok .payZlib78DA ∧
  decode .payload [0x78, 0x5E, 0x00, 0x00, 0x00, 0x00] = .ok (.payRaw 24184 0 0 0) ∧
  decode .payload [0x00, 0x00, 0x08, 0x00, 0x01, 0x00, 0x07, 0xAA] = .ok (.payG5 0 8 0 0) ∧
  decode .payload [0x78] = .ok .payShort ∧
  decode .dflBlock [0x63] = .ok (.dflFixed true) ∧
  decode .ctrlWrite [0x01, 0x01, 0x00, 0x00] = .ok (.start 1) ∧
  decode .ctrlLaunch [0x01, 0x01, 0x00, 0x00] = .ok .decode

/-- Ignored bits change nothing: bits 5:4 of a run command (30_encoding.md R118), format[7:1] and flags of a header at
classification (R120, the spec's decision), and at assembly the format byte and, but for the plane bit under bpp = 2, the
flags (45_assembler.md R262, R264, R265). -/
def Obligations.IgnoredBitsHaveNoEffect : Prop :=
  (∀ (ab ab' : BitVec 2) (n : BitVec 4) (s : State),
    exec (.runB ab n) s = exec (.runB ab' n) s ∧ exec (.runW ab n) s = exec (.runW ab' n) s) ∧
  (∀ (r c : BitVec 16) (f f' : BitVec 7) (g g' : BitVec 8) (s : State),
    exec (.payG5 r c f g) s = exec (.payG5 r c f' g') s ∧ exec (.payRaw r c f g) s = exec (.payRaw r c f' g') s) ∧
  (∀ (r0 r1 c0 c1 f f' g g' : Byte) (data : Bytes) (s : State), (s.b = 2 → g.getLsbD 0 = g'.getLsbD 0) →
    s.assemble (r0 :: r1 :: c0 :: c1 :: f :: g :: data) = s.assemble (r0 :: r1 :: c0 :: c1 :: f' :: g' :: data))

/-! ## The step -/

/-- What a step does (assumptions 1 and 2). The engine has its turn where no input is pending, and while BUSY where the next
input still waits or is a poll, which then has one engine step less to wait. Where the bytes the working unit reads decode to
an instruction, that step runs exactly the instruction; a deflate header or symbol is run with the bit reader behind its
bits; in IDLE nothing happens. Else the next input has its turn, and the step performs the host's action with the input
removed; a CTRL write runs the instruction its value encodes, and a poll in IDLE reads STATUS once. -/
def Obligations.StepRunsTheDecodedInstruction : Prop :=
  (∀ s t : State,
    (s.inputs = [] ∧ t = s) ∨
      (∃ h rest, s.inputs = h :: rest ∧ s.engine ≠ .idle ∧ (0 < h.wait ∨ h.action = .poll) ∧
        t = s.setInputs ({ wait := h.wait - 1, action := h.action } :: rest)) →
    step s = engineStep t ∧
    (t.engine = .idle → step s = .next t) ∧
    ∀ i : Instr,
      (∀ job g, t.engine = .g5 job g → g.running = true → decode .g5Cmd (g.src.drop g.gpos) = .ok i → step s = exec i t) ∧
      (∀ fpos, t.engine = .framing fpos →
        decode .stream (t.inBytes fpos (t.regs.inLen.toNat - fpos)) = .ok i → step s = exec i t) ∧
      (∀ fpos p, t.engine = .resolving fpos p → decode .payload p = .ok i → step s = exec i t) ∧
      (t.engine = .launched → decode .ctrlLaunch (bytes32le (ctrlWord true t.regs.op)) = .ok i → step s = exec i t) ∧
      (∀ x y work, t.engine = .drawing x y work → x < t.we → y < t.he →
        decode .fmtPixel (bytes32le (t.regRead .fmt)) = .ok i → step s = exec i t) ∧
      (∀ work, t.engine = .rotating work → decode .fmtRotate (bytes32le (t.regRead .fmt)) = .ok i → step s = exec i t) ∧
      (∀ fpos z r v, t.engine = .inflating fpos z → z.mode = .header → z.br.bits 3 = .ok (v, r) →
        decode .dflBlock [BitVec.ofNat 8 v] = .ok i → step s = exec i (t.setEngine (.inflating fpos (z.setReader r)))) ∧
      (∀ fpos z r v lit dist, t.engine = .inflating fpos z → z.mode = .body lit dist → lit.decode z.br = .ok (v, r) →
        v < 65536 → decode .symLit (symbolBytes v) = .ok i →
        step s = exec i (t.setEngine (.inflating fpos (z.setReader r)))) ∧
      (∀ fpos z r v lit dist len, t.engine = .inflating fpos z → z.mode = .distance lit dist len →
        dist.decode z.br = .ok (v, r) → v < 65536 → decode .symDist (symbolBytes v) = .ok i →
        step s = exec i (t.setEngine (.inflating fpos (z.setReader r)))) ∧
      (∀ fpos z r v nlit ndist clt lens, t.engine = .inflating fpos z → z.mode = .lengths nlit ndist clt lens →
        lens.length < nlit + ndist → clt.decode z.br = .ok (v, r) → v < 65536 → decode .symCl (symbolBytes v) = .ok i →
        step s = exec i (t.setEngine (.inflating fpos (z.setReader r))))) ∧
  (∀ (s : State) (h : HostInput) (rest : List HostInput), s.inputs = h :: rest →
    s.engine = .idle ∨ (h.wait = 0 ∧ h.action ≠ .poll) →
    step s = hostAct h.action (s.setInputs rest) ∧
    (∀ v i, h.action = .regWrite 32 0 v → decode .ctrlWrite (bytes32le v) = .ok i → step s = exec i (s.setInputs rest)) ∧
    (h.action = .poll → step s = .next { s with inputs := rest, responses := s.responses ++ [.word s.status] }))

/-! ## G5 (41_g5.md) -/

/-- RUN.B and RUN.W append `min(n, exp − len(out))` bytes of their colour, move the cursor by 1 and do nothing else
(41_g5.md R142, R143). -/
def Obligations.RunsAppendTheirColourClamped : Prop :=
  (∀ (ab : BitVec 2) (n : BitVec 4) (s : State) (job : G5Job) (g : G5Run),
    s.engine = .g5 job g → g.gpos < g.src.length → g.out.length < g.exp →
    exec (.runB ab n) s = .next (s.setEngine (.g5 job
      { g with out := g.out ++ List.replicate (min (n.toNat + 1) (g.exp - g.out.length)) 0x00, gpos := g.gpos + 1 })) ∧
    exec (.runW ab n) s = .next (s.setEngine (.g5 job
      { g with out := g.out ++ List.replicate (min (n.toNat + 1) (g.exp - g.out.length)) 0xFF, gpos := g.gpos + 1 }))) ∧
  (∀ c : Byte, c &&& 0xC0 = 0x80 → ∃ ab, decodeG5 c = .runB ab (BitVec.ofNat 4 c.toNat)) ∧
  (∀ c : Byte, c &&& 0xC0 = 0xC0 → ∃ ab, decodeG5 c = .runW ab (BitVec.ofNat 4 c.toNat))

/-- LIT copies the bytes that are there, cut to the room left, and moves the cursor by the declared length, always
(41_g5.md R144). -/
def Obligations.LiteralCopiesWhatIsThere : Prop :=
  (∀ (n : BitVec 7) (s : State) (job : G5Job) (g : G5Run),
    s.engine = .g5 job g → g.gpos < g.src.length → g.out.length < g.exp →
    ∃ g' : G5Run,
      exec (.lit n) s = .next (s.setEngine (.g5 job g')) ∧
      g'.src = g.src ∧ g'.exp = g.exp ∧
      g'.gpos = g.gpos + 1 + (n.toNat + 1) ∧
      g'.out.length =
        g.out.length + min (min (n.toNat + 1) (g.src.length - (g.gpos + 1))) (g.exp - g.out.length) ∧
      (∀ i, i < g.out.length → g'.out[i]? = g.out[i]?) ∧
      (∀ i, g.out.length + i < g'.out.length → g'.out[g.out.length + i]? = g.src[g.gpos + 1 + i]?)) ∧
  (∀ c : Byte, c &&& 0x80 = 0 → decodeG5 c = .lit (BitVec.ofNat 7 c.toNat))

/-- The whole decode: never more than `exp` bytes (41_g5.md R146), the cursor at most 128 behind the end (R149), and
`len(src)` rounds leave no command to read (R150). -/
def Obligations.G5DecodeIsBounded : Prop :=
  ∀ (src : Bytes) (exp : Nat),
    (g5Decode src exp).out.length ≤ exp ∧
    (g5Decode src exp).gpos ≤ src.length + 128 ∧
    (g5Decode src exp).running = false

/-- Once `exp` bytes are out, whatever follows in the source changes neither the output nor the cursor (41_g5.md R145). -/
def Obligations.G5TrailingInputIsNeverRead : Prop :=
  ∀ (src tail : Bytes) (exp : Nat), (g5Decode src exp).out.length = exp →
    (g5Decode (src ++ tail) exp).out = (g5Decode src exp).out ∧
    (g5Decode (src ++ tail) exp).gpos = (g5Decode src exp).gpos

/-- The engine's steps run the loop of 41_g5.md R141 to its end, one command a step, in at most `len(src)` of them
(R150). -/
def Obligations.G5StepsRunTheLoop : Prop :=
  ∀ (s : State) (job : G5Job) (g : G5Run), s.engine = .g5 job g →
    ∃ k, k ≤ g.src.length ∧ engineRun k s = .next (s.setEngine (.g5 job (G5Run.loop g.src.length g)))

/-- The end of a G5 decode (41_g5.md R141; 10_state.md R32). The G5 operation stores its bytes at the start of PB and
completes, leaving every other byte alone (47_host_operations.md R349, the spec's decision); a G5 block counts and hands
`header ++ out` on (42_resolver.md R175). -/
def Obligations.EndOfG5DecodeRecordsItsResult : Prop :=
  (∀ (s : State) (g : G5Run), s.engine = .g5 .standalone g → g.running = false → g.out.length ≤ s.caps.pbCap →
    ∃ t, engineStep s = .next t ∧
      t.engine = .idle ∧
      t.g5Out = BitVec.ofNat 32 g.out.length ∧
      t.g5In = BitVec.ofNat 32 (min g.gpos 0xFFFFFFFF) ∧
      (∀ i, i < g.out.length → some (t.pbByte i) = g.out[i]?) ∧
      (∀ a, g.out.length ≤ a → t.pbByte a = s.pbByte a) ∧
      (∀ a, t.inByte a = s.inByte a) ∧ (∀ a, t.imgWord a = s.imgWord a) ∧
      t.status.getLsbD 0 = false ∧ t.status.getLsbD 1 = true ∧
      t.status.getLsbD 10 = (s.status.getLsbD 10 || decide (g.out.length < g.exp)) ∧
      s.sameStatusBut [0, 1, 10] t ∧ s.sameRegistersBut [.status, .g5Out, .g5In] t ∧ s.sameHostSide t) ∧
  (∀ (s : State) (fpos : Nat) (header : Bytes) (g : G5Run), s.engine = .g5 (.block fpos header) g → g.running = false →
    ∃ t, engineStep s = .next t ∧
      t.engine = .dispatching fpos (header ++ g.out) ∧
      t.g5Out = BitVec.ofNat 32 g.out.length ∧
      t.g5In = BitVec.ofNat 32 (min g.gpos 0xFFFFFFFF) ∧
      t.cnt = { s.cnt with g5 := satInc s.cnt.g5 } ∧
      t.status.getLsbD 10 = (s.status.getLsbD 10 || decide (g.out.length < g.exp)) ∧
      s.sameStatusBut [10] t ∧ s.sameRegistersBut [.status, .g5Out, .g5In, .cntCodec1] t ∧ s.sameMemory t ∧
      s.sameHostSide t)

/-- The G5 pseudo-instructions decode to what they name (30_encoding.md R127, the spec's own syntax): `fill.b n` and
`fill.w n` to n bytes of one colour, `bytes` to its bytes, each with nothing left over. -/
def Obligations.G5PseudoInstructionsDecodeToWhatTheyName : Prop :=
  (∀ n, 1 ≤ n →
    (g5Decode (asmFillB n) n).out = List.replicate n 0x00 ∧ (g5Decode (asmFillB n) n).gpos = (asmFillB n).length) ∧
  (∀ n, 1 ≤ n →
    (g5Decode (asmFillW n) n).out = List.replicate n 0xFF ∧ (g5Decode (asmFillW n) n).gpos = (asmFillW n).length) ∧
  (∀ b : Bytes, b ≠ [] →
    (g5Decode (asmBytes b) b.length).out = b ∧ (g5Decode (asmBytes b) b.length).gpos = (asmBytes b).length)

/-! ## Framer (44_framer.md) -/

/-- The length prefix is read little-endian from the four bytes at the cursor (44_framer.md R242). -/
def Obligations.LengthPrefixIsLittleEndian : Prop :=
  ∀ (s : State) (fpos : Nat), s.engine = .framing fpos → fpos + 4 ≤ s.regs.inLen.toNat →
    ∃ l : Word, s.fetch = some (.frame l, s) ∧
      l.toNat = (s.inByte fpos).toNat + 2 ^ 8 * (s.inByte (fpos + 1)).toNat + 2 ^ 16 * (s.inByte (fpos + 2)).toNat +
        2 ^ 24 * (s.inByte (fpos + 3)).toNat

/-- FRAME takes `min(L, rem)` bytes as the payload, moves the cursor behind them, counts the block, and raises TRUNC exactly
where L exceeds what remains, the cursor then standing at the end of the stream (44_framer.md R243). -/
def Obligations.FrameTakesTheBytesThatRemain : Prop :=
  ∀ (l : Word) (s : State) (fpos : Nat), s.engine = .framing fpos → fpos + 4 ≤ s.regs.inLen.toNat →
    s.regs.inLen.toNat ≤ s.caps.inCap →
    ∃ (t : State) (p : Bytes), exec (.frame l) s = .next t ∧
      t.engine = .resolving (fpos + 4 + p.length) p ∧
      p.length = min l.toNat (s.regs.inLen.toNat - (fpos + 4)) ∧
      (∀ i, i < p.length → p[i]? = some (s.inByte (fpos + 4 + i))) ∧
      (s.regs.inLen.toNat - (fpos + 4) < l.toNat →
        t.status = s.status ||| 0x8 ∧ fpos + 4 + p.length = s.regs.inLen.toNat) ∧
      (l.toNat ≤ s.regs.inLen.toNat - (fpos + 4) → t.status = s.status) ∧
      t.cnt = { s.cnt with blocks := satInc s.cnt.blocks } ∧
      s.sameRegistersBut [.status, .cntBlk] t ∧ s.sameMemory t ∧ s.sameHostSide t

/-- With fewer than 4 bytes left the framer ends: TAIL exactly where 1 to 3 are left (44_framer.md R245, R248), then DECODE
completes and DECODE_RENDER goes on to draw from an all-white grid (47_host_operations.md R346, R348; the spec's
decisions). -/
def Obligations.StreamEndRaisesTail : Prop :=
  ∀ (s : State) (fpos : Nat), s.engine = .framing fpos → s.regs.inLen.toNat < fpos + 4 →
    let st : Word := if fpos < s.regs.inLen.toNat then s.status ||| 0x10 else s.status
    ∃ t, engineStep s = .next t ∧
      (s.regs.op = 3 → t.engine = .drawing 0 0 [] ∧ t.status = st) ∧
      (s.regs.op ≠ 3 → t.engine = .idle ∧ t.status = (st &&& 0xFFFFFFFE) ||| 0x2) ∧
      s.sameRegistersBut [.status] t ∧ s.sameMemory t ∧ s.sameHostSide t

/-! ## Resolver (42_resolver.md) -/

/-- A payload that is no zlib stream and shorter than 6 bytes is skipped: SKIPPED counts, SHORT is raised, the next block
follows, nothing else happens (42_resolver.md R174). -/
def Obligations.ShortPayloadIsSkipped : Prop :=
  ∀ (s : State) (fpos : Nat) (p : Bytes), s.engine = .resolving fpos p →
    let u : State :=
      { s with cnt := { s.cnt with skipped := satInc s.cnt.skipped }, status := s.status ||| 0x20, engine := .framing fpos }
    exec .payShort s = .next u ∧ (p.length < 6 → isZlib p = false → engineStep s = .next u)

/-- A payload that is no zlib stream, has a header and a clear format bit passes unchanged: RAW counts and the payload is the
block bytes (42_resolver.md R177). -/
def Obligations.RawPayloadPassesUnchanged : Prop :=
  ∀ (s : State) (fpos : Nat) (p : Bytes), s.engine = .resolving fpos p →
    let u : State :=
      { s with cnt := { s.cnt with raw := satInc s.cnt.raw }, engine := .dispatching fpos p }
    (∀ r c f g, exec (.payRaw r c f g) s = .next u) ∧
    (6 ≤ p.length → isZlib p = false → (byteAt p 4).getLsbD 0 = false → engineStep s = .next u)

/-- A zlib payload starts an inflate at byte 2 with an empty history (42_resolver.md R173; 43_inflate.md R191, R213: general
knowledge). A payload that is no zlib stream, has a header and a set format bit starts a G5 decode of the bytes behind the
header, to `row_count · bpr` bytes by the header as received; the header is kept as it is (42_resolver.md R175, R176). -/
def Obligations.CodedPayloadsStartTheirDecoders : Prop :=
  ∀ (s : State) (fpos : Nat) (p : Bytes), s.engine = .resolving fpos p →
    let u : State := s.setEngine (.inflating fpos
      { br := { src := p, q := 2, t := 0 }, out := [], adler := { s1 := 1, s2 := 0 }, final := false, mode := .header })
    exec .payZlib7801 s = .next u ∧ exec .payZlib789C s = .next u ∧ exec .payZlib78DA s = .next u ∧
    (isZlib p = true → engineStep s = .next u) ∧
    (∀ r c f g, exec (.payG5 r c f g) s = .next (s.setEngine (.g5 (.block fpos (p.take 6))
      { src := p.drop 6, exp := c.toNat * s.bpr, gpos := 0, out := [] }))) ∧
    (∀ (r0 r1 c0 c1 format flags : Byte) (data : Bytes), p = r0 :: r1 :: c0 :: c1 :: format :: flags :: data →
      isZlib p = false → format.getLsbD 0 = true →
      engineStep s = .next (s.setEngine (.g5 (.block fpos [r0, r1, c0, c1, format, flags])
        { src := data, exp := (c0.toNat + 256 * c1.toNat) * s.bpr, gpos := 0, out := [] })))

/-! ## Inflate (43_inflate.md; every rule of it is the spec's general knowledge, assumption 16) -/

/-- Each of the 14 deflate instructions, where its unit reads it, answers a next state: the payload's inflate goes on with
nothing else changed, or the payload fails, with ZFAIL counted and raised and the block skipped (42_resolver.md R173;
43_inflate.md R218). The reserved block type, the length symbols 286 and 287 and the distance symbols 30 and 31 always fail
(43_inflate.md R197, R210, R212). -/
def Obligations.DeflateInstructionGoesOnOrFails : Prop :=
  ∀ (i : Instr) (s : State) (fpos : Nat) (z : Inflate), s.engine = .inflating fpos z → z.context = some (formatOf i) →
    let failed : State :=
      { s with cnt := { s.cnt with zfail := satInc s.cnt.zfail }, status := s.status ||| 0x100, engine := .framing fpos }
    ((∃ z', exec i s = .next (s.setEngine (.inflating fpos z'))) ∨ exec i s = .next failed) ∧
    (∀ final, i = .dflBtype3 final → exec i s = .next failed) ∧
    (∀ sym, i = .dflLenRsv sym → exec i s = .next failed) ∧
    (∀ sym, i = .dflDistRsv sym → exec i s = .next failed)

/-- DFL.STORED (43_inflate.md R196): after the alignment, LEN little-endian, its complement, LEN bytes appended and fed to the
running checksum; a wrong complement or a missing byte fails. -/
def Obligations.StoredBlockAppendsItsBytes : Prop :=
  ∀ (final : Bool) (s : State) (fpos : Nat) (z : Inflate), s.engine = .inflating fpos z → z.mode = .header →
    let q := if z.br.t = 0 then z.br.q else z.br.q + 1
    let len := (byteAt z.br.src q).toNat + 256 * (byteAt z.br.src (q + 1)).toNat
    let nlen := (byteAt z.br.src (q + 2)).toNat + 256 * (byteAt z.br.src (q + 3)).toNat
    let good := q + 4 + len ≤ z.br.src.length ∧ nlen = 65535 - len
    (good → ∃ z' : Inflate, exec (.dflStored final) s = .next (s.setEngine (.inflating fpos z')) ∧
      z'.br = { src := z.br.src, q := q + 4 + len, t := 0 } ∧
      z'.out.length = z.out.length + len ∧
      (∀ i, i < z.out.length → z'.out[i]? = z.out[i]?) ∧
      (∀ i, i < len → z'.out[z.out.length + i]? = z.br.src[q + 4 + i]?) ∧
      z'.adler = z.adler.feed (z'.out.drop z.out.length) ∧
      z'.final = final ∧ z'.mode = if final then .trailer else .header) ∧
    (¬ good → exec (.dflStored final) s = .next (s.inflateFailed fpos))

/-- DFL.FIXED (43_inflate.md R191, R198): the block is read with the fixed codes, whose lengths make them the canonical codes
of R195, valid, with the code words R198 lists. -/
def Obligations.FixedBlockReadsWithTheFixedCodes : Prop :=
  (∀ (final : Bool) (s : State) (fpos : Nat) (z : Inflate), s.engine = .inflating fpos z → z.mode = .header →
    exec (.dflFixed final) s =
      .next (s.setEngine (.inflating fpos { z with final := final, mode := .body fixedLit fixedDist }))) ∧
  buildCode fixedLitLengths .lit = .ok fixedLit ∧
  buildCode (List.replicate 32 5) .dist = .ok fixedDist ∧
  fixedLit.lookup 8 0x30 = some 0 ∧ fixedLit.lookup 8 0xBF = some 143 ∧
  fixedLit.lookup 9 0x190 = some 144 ∧ fixedLit.lookup 9 0x1FF = some 255 ∧
  fixedLit.lookup 7 0x00 = some 256 ∧ fixedLit.lookup 7 0x17 = some 279 ∧
  fixedLit.lookup 8 0xC0 = some 280 ∧ fixedLit.lookup 8 0xC7 = some 287

/-- DFL.DYNAMIC (43_inflate.md R200–R202): HLIT, HDIST and HCLEN, 5, 5 and 4 bits; too many codes fail; else the code-length
code lengths in ORDER, then the code-length code, with which the lengths are read next; a missing bit or a bad code fails. -/
def Obligations.DynamicHeaderIsRead : Prop :=
  ∀ (final : Bool) (s : State) (fpos : Nat) (z : Inflate), s.engine = .inflating fpos z → z.mode = .header →
    (∀ e, z.br.bits 14 = .error e → exec (.dflDynamic final) s = .next (s.inflateFailed fpos)) ∧
    (∀ (v : Nat) (r : BitReader), z.br.bits 14 = .ok (v, r) →
      let nlit := v % 32 + 257
      let ndist := v / 32 % 32 + 1
      let ncl := v / 1024 + 4
      (286 < nlit ∨ 30 < ndist → exec (.dflDynamic final) s = .next (s.inflateFailed fpos)) ∧
      (nlit ≤ 286 → ndist ≤ 30 →
        (∀ e, r.bits (3 * ncl) = .error e → exec (.dflDynamic final) s = .next (s.inflateFailed fpos)) ∧
        ∀ (w : Nat) (r' : BitReader), r.bits (3 * ncl) = .ok (w, r') →
          ∃ cl : List Nat, cl.length = 19 ∧
            (∀ i, i < ncl → cl[clOrder.getD i 0]? = some (w / 8 ^ i % 8)) ∧
            (∀ i, ncl ≤ i → i < 19 → cl[clOrder.getD i 0]? = some 0) ∧
            (∀ clt, buildCode cl .cl = .ok clt →
              exec (.dflDynamic final) s = .next (s.setEngine (.inflating fpos
                { z with br := r', final := final, mode := .lengths nlit ndist clt [] }))) ∧
            (∀ e, buildCode cl .cl = .error e → exec (.dflDynamic final) s = .next (s.inflateFailed fpos))))

/-- DFL.LIT appends its byte and DFL.EOB ends the block, at the same bit position, before the next header or, after the final
block, the trailer (43_inflate.md R207, R208). -/
def Obligations.LiteralAndEndOfBlockSymbols : Prop :=
  ∀ (s : State) (fpos : Nat) (z : Inflate) (lit dist : HuffCode), s.engine = .inflating fpos z → z.mode = .body lit dist →
    (∀ sym : Byte, exec (.dflLit sym) s =
      .next (s.setEngine (.inflating fpos { z with out := z.out ++ [sym], adler := z.adler.byte sym }))) ∧
    exec .dflEob s =
      .next (s.setEngine (.inflating fpos { z with mode := if z.final then .trailer else .header }))

/-- DFL.LEN (43_inflate.md R209): the length is LBASE plus LEXT extra bits, and the distance symbol is next; missing bits
fail. -/
def Obligations.LengthSymbolsFollowTheirTable : Prop :=
  let lbase := [3, 4, 5, 6, 7, 8, 9, 10, 11, 13, 15, 17, 19, 23, 27, 31, 35, 43, 51, 59, 67, 83, 99, 115, 131, 163, 195, 227, 258]
  let lext := [0, 0, 0, 0, 0, 0, 0, 0, 1, 1, 1, 1, 2, 2, 2, 2, 3, 3, 3, 3, 4, 4, 4, 4, 5, 5, 5, 5, 0]
  ∀ (sym : BitVec 9) (s : State) (fpos : Nat) (z : Inflate) (lit dist : HuffCode),
    s.engine = .inflating fpos z → z.mode = .body lit dist → 257 ≤ sym.toNat → sym.toNat ≤ 285 →
    (∀ e r, z.br.bits (lext.getD (sym.toNat - 257) 0) = .ok (e, r) →
      exec (.dflLen sym) s = .next (s.setEngine (.inflating fpos
        { z with br := r, mode := .distance lit dist (lbase.getD (sym.toNat - 257) 0 + e) }))) ∧
    (∀ err, z.br.bits (lext.getD (sym.toNat - 257) 0) = .error err →
      exec (.dflLen sym) s = .next (s.inflateFailed fpos))

/-- DFL.DIST (43_inflate.md R211, R213): the distance is DBASE plus DEXT extra bits; a distance beyond the output or missing
bits fail; else L bytes are appended, each equal to the one D bytes before it. -/
def Obligations.DistanceSymbolsCopyByteByByte : Prop :=
  let dbase := [1, 2, 3, 4, 5, 7, 9, 13, 17, 25, 33, 49, 65, 97, 129, 193, 257, 385, 513, 769, 1025, 1537, 2049, 3073, 4097,
    6145, 8193, 12289, 16385, 24577]
  let dext := [0, 0, 0, 0, 1, 1, 2, 2, 3, 3, 4, 4, 5, 5, 6, 6, 7, 7, 8, 8, 9, 9, 10, 10, 11, 11, 12, 12, 13, 13]
  ∀ (ds : BitVec 5) (s : State) (fpos : Nat) (z : Inflate) (lit dist : HuffCode) (len : Nat),
    s.engine = .inflating fpos z → z.mode = .distance lit dist len → ds.toNat ≤ 29 →
    (∀ e r, z.br.bits (dext.getD ds.toNat 0) = .ok (e, r) →
      let d := dbase.getD ds.toNat 0 + e
      (z.out.length < d → exec (.dflDist ds) s = .next (s.inflateFailed fpos)) ∧
      (d ≤ z.out.length → ∃ z' : Inflate, exec (.dflDist ds) s = .next (s.setEngine (.inflating fpos z')) ∧
        z'.br = r ∧ z'.final = z.final ∧ z'.mode = .body lit dist ∧
        z'.out.length = z.out.length + len ∧
        (∀ i, i < z.out.length → z'.out[i]? = z.out[i]?) ∧
        (∀ j, j < len → z'.out[z.out.length + j]? = z'.out[z.out.length + j - d]?) ∧
        z'.adler = z.adler.feed (z'.out.drop z.out.length))) ∧
    (∀ err, z.br.bits (dext.getD ds.toNat 0) = .error err → exec (.dflDist ds) s = .next (s.inflateFailed fpos))

/-- The code-length symbols (43_inflate.md R203): 0 to 15 append that length, 16 repeats the last one 3 to 6 times, 17 and 18
append 3 to 10 and 11 to 138 zeros; more lengths than announced, a repeat of nothing and missing bits fail. -/
def Obligations.CodeLengthSymbolsAppendLengths : Prop :=
  ∀ (s : State) (fpos : Nat) (z : Inflate) (nlit ndist : Nat) (clt : HuffCode) (lens : List Nat),
    s.engine = .inflating fpos z → z.mode = .lengths nlit ndist clt lens →
    let result (i : Instr) (more : List Nat) (r : BitReader) : Prop :=
      (lens.length + more.length ≤ nlit + ndist → exec i s =
        .next (s.setEngine (.inflating fpos { z with br := r, mode := .lengths nlit ndist clt (lens ++ more) }))) ∧
      (nlit + ndist < lens.length + more.length → exec i s = .next (s.inflateFailed fpos))
    (∀ sym : BitVec 4, result (.dflClLen sym) [sym.toNat] z.br) ∧
    (∀ n r, z.br.bits 2 = .ok (n, r) →
      (∀ l, lens.getLast? = some l → result .dflClRep16 (List.replicate (3 + n) l) r)) ∧
    (lens = [] → exec .dflClRep16 s = .next (s.inflateFailed fpos)) ∧
    (∀ n r, z.br.bits 3 = .ok (n, r) → result .dflClRep17 (List.replicate (3 + n) 0) r) ∧
    (∀ n r, z.br.bits 7 = .ok (n, r) → result .dflClRep18 (List.replicate (11 + n) 0) r) ∧
    (∀ e, z.br.bits 2 = .error e → exec .dflClRep16 s = .next (s.inflateFailed fpos)) ∧
    (∀ e, z.br.bits 3 = .error e → exec .dflClRep17 s = .next (s.inflateFailed fpos)) ∧
    (∀ e, z.br.bits 7 = .error e → exec .dflClRep18 s = .next (s.inflateFailed fpos))

/-- The end of the code lengths and the trailer (43_inflate.md R204, R205, R215–R218; 42_resolver.md R173): a dynamic block's
codes are built, or the payload fails; the big-endian Adler-32 of the output decides the payload, bytes behind it are
ignored, and a payload that inflates counts and becomes the block bytes. -/
def Obligations.TablesAndTrailerDecideThePayload : Prop :=
  ∀ (s : State) (fpos : Nat) (z : Inflate), s.engine = .inflating fpos z →
    (∀ nlit ndist clt lens, z.mode = .lengths nlit ndist clt lens → nlit + ndist ≤ lens.length →
      (lens.getD 256 0 = 0 → engineStep s = .next (s.inflateFailed fpos)) ∧
      (lens.getD 256 0 ≠ 0 → ∀ lit dist, buildCode (lens.take nlit) .lit = .ok lit →
        buildCode ((lens.drop nlit).take ndist) .dist = .ok dist →
        engineStep s = .next (s.setEngine (.inflating fpos { z with mode := .body lit dist }))) ∧
      (∀ e, buildCode (lens.take nlit) .lit = .error e → engineStep s = .next (s.inflateFailed fpos)) ∧
      (∀ e, buildCode ((lens.drop nlit).take ndist) .dist = .error e →
        engineStep s = .next (s.inflateFailed fpos))) ∧
    (z.mode = .trailer → z.adler = AdlerSums.begin.feed z.out →
      let q := if z.br.t = 0 then z.br.q else z.br.q + 1
      (∀ a b c d rest, z.br.src.drop q = a :: b :: c :: d :: rest →
        (a.toNat * 2 ^ 24 + b.toNat * 2 ^ 16 + c.toNat * 2 ^ 8 + d.toNat = adler32 z.out →
          engineStep s = .next
            { s with cnt := { s.cnt with zlib := satInc s.cnt.zlib }, engine := .dispatching fpos z.out }) ∧
        (a.toNat * 2 ^ 24 + b.toNat * 2 ^ 16 + c.toNat * 2 ^ 8 + d.toNat ≠ adler32 z.out →
          engineStep s = .next (s.inflateFailed fpos))) ∧
      (z.br.src.length < q + 4 → engineStep s = .next (s.inflateFailed fpos)))

/-- A Huffman symbol is read most-significant bit first (43_inflate.md R194). `spelled k c` says that the next k bits, the first
one highest, are the number c. The code of a symbol read is spelled by the bits read, 1 to 15 of them. Where the bits spell
the code word of an entry that no other entry shares, and no shorter code word, its symbol is read, with the reader behind
those bits; where they spell no code word of 1 to 15 bits, or end before one, the read fails. -/
def Obligations.HuffmanCodesAreReadHighBitFirst : Prop :=
  ∀ (T : HuffCode) (r : BitReader),
    let spelled (k c : Nat) : Prop :=
      c < 2 ^ k ∧ ∃ v r', r.bits k = .ok (v, r') ∧ ∀ j, j < k → c.testBit (k - 1 - j) = v.testBit j
    (∀ sym r', T.decode r = .ok (sym, r') →
      ∃ e ∈ T, e.sym = sym ∧ 1 ≤ e.len ∧ e.len ≤ 15 ∧ spelled e.len e.code ∧ ∃ v, r.bits e.len = .ok (v, r')) ∧
    (∀ e ∈ T, ∀ v r', 1 ≤ e.len → e.len ≤ 15 → spelled e.len e.code → r.bits e.len = .ok (v, r') →
      (∀ f ∈ T, f.len = e.len → f.code = e.code → f = e) →
      (∀ f ∈ T, 1 ≤ f.len → f.len < e.len → ¬ spelled f.len f.code) →
      T.decode r = .ok (e.sym, r')) ∧
    ((∀ f ∈ T, 1 ≤ f.len → f.len ≤ 15 → ¬ spelled f.len f.code) → ∃ err, T.decode r = .error err)

/-- A code that `build` accepts (43_inflate.md R195): every symbol with a non-zero length has exactly one code word, of that
length; no other symbol has one; and the code is prefix-free: no code word is the beginning of another, so at most one symbol
can be read from any bits. -/
def Obligations.BuiltCodesArePrefixFree : Prop :=
  ∀ (lens : List Nat) (kind : CodeKind) (T : HuffCode), (∀ l ∈ lens, l ≤ 15) → buildCode lens kind = .ok T →
    (∀ s l, lens[s]? = some l → l ≠ 0 → ∃ e ∈ T, e.sym = s ∧ ∀ f ∈ T, f.sym = s → f = e) ∧
    (∀ e ∈ T, e.len ≠ 0 ∧ e.code < 2 ^ e.len ∧ lens[e.sym]? = some e.len) ∧
    ∀ e ∈ T, ∀ f ∈ T, e.len ≤ f.len → f.code / 2 ^ (f.len - e.len) = e.code → e = f

/-- The engine's steps on a payload add up to `inflate` as 43_inflate.md R191 states it: the block bytes and a ZLIB count, or
the failure's event and count, with nothing else changed (R218). -/
def Obligations.InflateStepsReachTheResult : Prop :=
  ∀ (s : State) (fpos : Nat) (p : Bytes), s.engine = .inflating fpos (Inflate.begin p) →
    ∃ k, engineRun k s = .next
      (match inflate p with
       | .ok d => { s with cnt := { s.cnt with zlib := satInc s.cnt.zlib }, engine := .dispatching fpos d }
       | .error _ => s.inflateFailed fpos)

/-- `zlib.stored` inflates to its content, whatever the content (30_encoding.md R125, the spec's own syntax; 43_inflate.md R191,
R196, R215). -/
def Obligations.StoredZlibStreamInflatesToItsContent : Prop :=
  ∀ c : Bytes, isZlib (asmZlibStored c) = true ∧ inflate (asmZlibStored c) = .ok c

/-! ## Assembler (45_assembler.md) -/

/-- Block bytes with a header are written to their plane's rows: the ranges of 45_assembler.md R266, on the plane of R262 or
R264, byte by byte, inside that plane (R268), every other byte unchanged; APPLIED counts where a byte was written, HCLAMP
and DCLAMP are raised exactly where R266 says. -/
def Obligations.AssembleWritesTheClampedRows : Prop :=
  ∀ (s : State) (fpos : Nat) (r0 r1 c0 c1 format flags : Byte) (data : Bytes),
    s.engine = .dispatching fpos (r0 :: r1 :: c0 :: c1 :: format :: flags :: data) →
    s.np * s.psize ≤ s.caps.pbCap →
    let startRow := r0.toNat + 256 * r1.toNat
    let rowCount := c0.toNat + 256 * c1.toNat
    let sRow := min startRow s.he
    let eRow := min (startRow + rowCount) s.he
    let want := (eRow - sRow) * s.bpr
    let n := min want data.length
    let plane := if s.b = 2 then flags.toNat % 2 else 0
    let base := plane * s.psize + sRow * s.bpr
    ∃ t, engineStep s = .next t ∧
      t.engine = .framing fpos ∧
      (∀ i, i < n → some (t.pbByte (base + i)) = data[i]?) ∧
      (∀ a, a < base ∨ base + n ≤ a → t.pbByte a = s.pbByte a) ∧
      base + n ≤ (plane + 1) * s.psize ∧
      (∀ a, t.inByte a = s.inByte a) ∧ (∀ a, t.imgWord a = s.imgWord a) ∧
      t.cnt = (if n = 0 then s.cnt else { s.cnt with applied := satInc s.cnt.applied }) ∧
      t.status.getLsbD 6 = (s.status.getLsbD 6 || decide (s.he < startRow + rowCount)) ∧
      t.status.getLsbD 7 = (s.status.getLsbD 7 || decide (data.length < want)) ∧
      s.sameStatusBut [6, 7] t ∧ s.sameRegistersBut [.status, .cntBlk] t ∧ s.sameHostSide t

/-- Block bytes too short for a header are skipped like a short payload (44_framer.md R247). -/
def Obligations.ShortBlockBytesAreSkipped : Prop :=
  ∀ (s : State) (fpos : Nat) (d : Bytes), s.engine = .dispatching fpos d → d.length < 6 →
    engineStep s = .next
      { s with cnt := { s.cnt with skipped := satInc s.cnt.skipped }, status := s.status ||| 0x20, engine := .framing fpos }

/-- The codecs are transparent: a zlib payload whose content has a clear format bit assembles to the same PB and events as
that content sent raw (42_resolver.md R179), and a G5 block to the same PB as the raw block of the bytes it decodes to
(41_g5.md R152). -/
def Obligations.CodecsAreTransparent : Prop :=
  (∀ (s : State) (p d : Bytes), s.np * s.psize ≤ s.caps.pbCap → isZlib p = true → inflate p = .ok d →
    6 ≤ d.length → isZlib d = false → (byteAt d 4).getLsbD 0 = false →
    ∃ t u, State.dispatchClass (s.resolve p) = .next t ∧ State.dispatchClass (s.resolve d) = .next u ∧
      t.pbMem = u.pbMem ∧ t.status = u.status ∧ t.cnt.applied = u.cnt.applied) ∧
  (∀ (s : State) (r0 r1 c0 c1 format flags : Byte) (g d : Bytes), s.np * s.psize ≤ s.caps.pbCap →
    let coded := r0 :: r1 :: c0 :: c1 :: (format ||| 1) :: flags :: g
    let raw := r0 :: r1 :: c0 :: c1 :: (format &&& 0xFE) :: flags :: d
    isZlib coded = false → d ≠ [] → (c0.toNat + 256 * c1.toNat) * s.bpr = d.length → (g5Decode g d.length).out = d →
    ∃ t u, State.dispatchClass (s.resolve coded) = .next t ∧ State.dispatchClass (s.resolve raw) = .next u ∧
      t.pbMem = u.pbMem ∧ t.status = u.status ∧ t.cnt.applied = u.cnt.applied)

/-! ## Render (46_unpack_render.md) -/

/-- PLANE.READ (46_unpack_render.md R292, R293; R294, R295 and the order of pixels of R290 are the spec's decisions): the
pixel's bit in the black plane and, for bpp = 2, in the colour plane; its key; the entry's colour, the default white and
KEYMISS where the table has no entry for the key. The pixel is drawn into the work grid and the next one follows. -/
def Obligations.PlanePixelGetsItsKeysColour : Prop :=
  ∀ (bpp : BitVec 4) (s : State) (x y : Nat) (work : Memory 24),
    s.engine = .drawing x y work → x < s.we → y < s.he → s.regs.bpp = bpp → 1 ≤ bpp.toNat → bpp.toNat ≤ 2 →
    s.np * s.psize ≤ s.caps.pbCap →
    let kb := (s.pbByte (y * s.bpr + x / 8)).getLsbD (7 - x % 8)
    let kc := decide (bpp.toNat = 2) && (s.pbByte (s.psize + y * s.bpr + x / 8)).getLsbD (7 - x % 8)
    let first (tag : BitVec 2) (i : Nat) : Prop := i < s.n ∧ s.ctTag i = tag ∧ ∀ j, j < i → s.ctTag j ≠ tag
    let absent (tag : BitVec 2) : Prop := ∀ i, i < s.n → s.ctTag i ≠ tag
    ∃ (t : State) (c : Rgb) (miss : Bool) (work' : Memory 24), exec (.planeRead bpp) s = .next t ∧
      (kb = true → (∀ i, first 1 i → c = s.ctRgb i ∧ miss = false) ∧ (absent 1 → c = 0xFFFFFF ∧ miss = true)) ∧
      (kb = false → kc = false →
        (∀ i, first 2 i → c = s.ctRgb i ∧ miss = false) ∧ (absent 2 → c = 0xFFFFFF ∧ miss = true)) ∧
      (kb = false → kc = true →
        (∀ i, first 0 i → c = s.ctRgb i ∧ miss = false) ∧
        (∀ i, absent 0 → first 2 i → c = s.ctRgb i ∧ miss = true) ∧
        (absent 0 → absent 2 → c = 0xFFFFFF ∧ miss = true)) ∧
      t.engine = (if x + 1 < s.we then .drawing (x + 1) y work' else .drawing 0 (y + 1) work') ∧
      (∀ k, Memory.read Config.white work' k = if k = y * s.we + x then c else Memory.read Config.white work k) ∧
      t.status = (if miss then s.status ||| 0x1000 else s.status) ∧
      s.sameRegistersBut [.status] t ∧ s.sameMemory t ∧ s.sameHostSide t

/-- INDEX.EXTRACT (46_unpack_render.md R297, R298 and 30_encoding.md R115, the spec's decisions): the index is the `b` row bits
from `x · b` on, the first one highest, row bit k being bit `7 − (k mod 8)` of row byte `k div 8`; an index below N gives
that entry's colour whatever its TAG, any other leaves the pixel white and raises IDXOOR. -/
def Obligations.IndexPixelGetsItsEntrysColour : Prop :=
  ∀ (bpp : BitVec 4) (s : State) (x y : Nat) (work : Memory 24),
    s.engine = .drawing x y work → x < s.we → y < s.he → s.regs.bpp = bpp → 3 ≤ bpp.toNat → bpp.toNat ≤ 8 →
    s.np * s.psize ≤ s.caps.pbCap →
    let rowBit (k : Nat) : Bool := (s.pbByte (y * s.bpr + k / 8)).getLsbD (7 - k % 8)
    ∃ (t : State) (idx : Nat) (c : Rgb) (work' : Memory 24), exec (.indexExtract bpp) s = .next t ∧
      idx < 2 ^ bpp.toNat ∧
      (∀ j, j < bpp.toNat → idx.testBit (bpp.toNat - 1 - j) = rowBit (x * bpp.toNat + j)) ∧
      (idx < s.n → c = s.ctRgb idx ∧ t.status = s.status) ∧
      (s.n ≤ idx → c = 0xFFFFFF ∧ t.status = s.status ||| 0x800) ∧
      t.engine = (if x + 1 < s.we then .drawing (x + 1) y work' else .drawing 0 (y + 1) work') ∧
      (∀ k, Memory.read Config.white work' k = if k = y * s.we + x then c else Memory.read Config.white work k) ∧
      s.sameRegistersBut [.status] t ∧ s.sameMemory t ∧ s.sameHostSide t

/-- ROT0 and ROT2 (46_unpack_render.md R299, R301), on a work grid of W × H pixels. -/
def Obligations.EvenRotationsPlaceEveryPixel : Prop :=
  ∀ (bpp : BitVec 4) (s : State) (work : Memory 24), s.engine = .rotating work → s.w * s.h ≤ s.caps.imgCap →
    (s.regs.rot = 0 → s.we = s.w ∧ s.he = s.h ∧
      ∃ t, exec (.rot0 bpp) s = .next t ∧ s.rotatesTo work (fun _ y => y) (fun x _ => x) t) ∧
    (s.regs.rot = 2 → s.we = s.w ∧ s.he = s.h ∧
      ∃ t, exec (.rot2 bpp) s = .next t ∧
        s.rotatesTo work (fun _ y => s.he - 1 - y) (fun x _ => s.we - 1 - x) t)

/-- ROT1 and ROT3 (46_unpack_render.md R300, R302, the direction the spec's decision D11), on a work grid of H × W pixels. -/
def Obligations.OddRotationsPlaceEveryPixel : Prop :=
  ∀ (bpp : BitVec 4) (s : State) (work : Memory 24), s.engine = .rotating work → s.w * s.h ≤ s.caps.imgCap →
    (s.regs.rot = 1 → s.we = s.h ∧ s.he = s.w ∧
      ∃ t, exec (.rot1 bpp) s = .next t ∧ s.rotatesTo work (fun x _ => s.he - 1 - x) (fun _ y => y) t) ∧
    (s.regs.rot = 3 → s.we = s.h ∧ s.he = s.w ∧
      ∃ t, exec (.rot3 bpp) s = .next t ∧ s.rotatesTo work (fun x _ => x) (fun _ y => s.we - 1 - y) t)

/-- No pixel of the grid is read outside the buffer (46_unpack_render.md R306). -/
def Obligations.PixelReadsStayInTheBuffer : Prop :=
  ∀ (s : State) (x y : Nat), x < s.we → y < s.he →
    (1 ≤ s.b → s.b ≤ 2 → (s.np - 1) * s.psize + s.planeIndex x y < s.np * s.psize) ∧
    (3 ≤ s.b → s.lastIndexByte s.b x y < s.psize ∧ s.lastIndexByte s.b x y < (y + 1) * s.bpr)

/-! ## Host operations (47_host_operations.md) -/

/-- CTRL.SETOP only stores OP (47_host_operations.md R356); START stores OP, clears STATUS to BUSY, every counter, G5_OUT and
G5_IN, and hands over to the engine (R341, R342; the spec's decisions, the hand-over the model's, assumption 1). -/
def Obligations.CtrlWritesStoreOpAndStart : Prop :=
  ∀ (op : BitVec 3) (s : State), s.engine = .idle →
    exec (.ctrlSetop op) s = .next { s with regs := { s.regs with op := op } } ∧
    exec (.start op) s = .next
      { s with
        regs := { s.regs with op := op }
        status := 0x1
        cnt := { blocks := 0, applied := 0, raw := 0, zlib := 0, g5 := 0, skipped := 0, zfail := 0 }
        g5Out := 0
        g5In := 0
        engine := .launched }

/-- The derived geometry, written out over the registers (10_state.md R37–R40): We and He exchange W and H exactly where ROT is
odd, bpr is `ceil(We / 8)` for b ≤ 2 and `ceil(We · b / 8)` else, NP is 2 exactly for b = 2, PSIZE is `bpr · He`. And the
configuration check over it, condition by condition (47_host_operations.md R343, the spec's decisions D5, D6, D8, D39). -/
def Obligations.ConfigurationCheckMeansItsTable : Prop :=
  ∀ s : State,
    let w := s.regs.width.toNat
    let h := s.regs.height.toNat
    let b := s.regs.bpp.toNat
    let odd := s.regs.rot = 1 ∨ s.regs.rot = 3
    let dims := 1 ≤ w ∧ 1 ≤ h
    let bpp := 1 ≤ b ∧ b ≤ 8
    let inLen := s.regs.inLen.toNat ≤ s.caps.inCap
    let count := s.regs.ctCount.toNat ≤ 256
    let noTag3 := ∀ i, i < s.regs.ctCount.toNat → s.ctTag i ≠ 3
    let atMostOne (tag : BitVec 2) : Prop :=
      ∀ i j, i < s.regs.ctCount.toNat → j < s.regs.ctCount.toNat → s.ctTag i = tag → s.ctTag j = tag → i = j
    let image := w * h ≤ s.caps.imgCap
    let expLen := s.regs.expLen.toNat ≤ s.caps.pbCap
    ∃ we he bpr np : Nat,
      (odd → we = h ∧ he = w) ∧ (¬ odd → we = w ∧ he = h) ∧
      (b ≤ 2 → we ≤ 8 * bpr ∧ 8 * bpr < we + 8) ∧ (3 ≤ b → we * b ≤ 8 * bpr ∧ 8 * bpr < we * b + 8) ∧
      (b = 2 → np = 2) ∧ (b ≠ 2 → np = 1) ∧
      s.w = w ∧ s.h = h ∧ s.b = b ∧ s.we = we ∧ s.he = he ∧ s.bpr = bpr ∧ s.np = np ∧ s.psize = bpr * he ∧
      let planes := np * (bpr * he) ≤ s.caps.pbCap
      (s.configOk 0 = true) ∧
      (s.configOk 1 = true ↔ dims ∧ bpp ∧ planes ∧ inLen) ∧
      (s.configOk 2 = true ↔ dims ∧ bpp ∧ planes ∧ count ∧ noTag3 ∧ atMostOne 1 ∧ atMostOne 2 ∧ image) ∧
      (s.configOk 3 = true ↔ dims ∧ bpp ∧ planes ∧ inLen ∧ count ∧ noTag3 ∧ atMostOne 1 ∧ atMostOne 2 ∧ image) ∧
      (s.configOk 4 = true ↔ inLen ∧ expLen) ∧
      s.configOk 5 = false ∧ s.configOk 6 = false ∧ s.configOk 7 = false

/-- What a launched operation does first (47_host_operations.md R344–R349, R352, the spec's decisions). Its configuration
accepted: NOP completes; DECODE and DECODE_RENDER clear NEXT_PLANE and the plane buffers, byte by byte and no further
(45_assembler.md R271), and frame from byte 0; RENDER draws from an all-white grid; G5 decodes IN[0 .. IN_LEN − 1]. Not
accepted, as the reserved operations never are: CFG_ERR and completion, nothing else changed; right after START, STATUS is
0x6. -/
def Obligations.LaunchedOperationsBeginOrSetCfgErr : Prop :=
  ∀ s : State, s.engine = .launched →
    let rejected : State := { s with status := ((s.status ||| 0x4) &&& 0xFFFFFFFE) ||| 0x2, engine := .idle }
    (s.regs.op = 0 → exec .nop s = .next { s with status := (s.status &&& 0xFFFFFFFE) ||| 0x2, engine := .idle }) ∧
    (∀ i : Instr, (i = .decode ∧ s.regs.op = 1 ∧ s.configOk 1 = true) ∨
        (i = .decodeRender ∧ s.regs.op = 3 ∧ s.configOk 3 = true) →
      ∃ t, exec i s = .next t ∧ t.engine = .framing 0 ∧ t.nextPlane = 0 ∧
        (∀ a, a < s.np * s.psize → t.pbByte a = 0x00) ∧
        (∀ a, s.np * s.psize ≤ a → t.pbByte a = s.pbByte a) ∧
        (∀ a, t.inByte a = s.inByte a) ∧ (∀ a, t.imgWord a = s.imgWord a) ∧
        s.sameRegistersBut [.planeState] t ∧ s.sameHostSide t) ∧
    (s.regs.op = 2 → s.configOk 2 = true → exec .render s = .next (s.setEngine (.drawing 0 0 []))) ∧
    (s.regs.op = 4 → s.configOk 4 = true → ∃ src : Bytes,
      exec .g5 s = .next (s.setEngine (.g5 .standalone { src := src, exp := s.regs.expLen.toNat, gpos := 0, out := [] })) ∧
      src.length = s.regs.inLen.toNat ∧ ∀ i, i < src.length → src[i]? = some (s.inByte i)) ∧
    (s.regs.op = 1 → s.configOk 1 = false → exec .decode s = .next rejected) ∧
    (s.regs.op = 2 → s.configOk 2 = false → exec .render s = .next rejected) ∧
    (s.regs.op = 3 → s.configOk 3 = false → exec .decodeRender s = .next rejected) ∧
    (s.regs.op = 4 → s.configOk 4 = false → exec .g5 s = .next rejected) ∧
    (s.regs.op = 5 → exec .opRsv5 s = .next rejected) ∧
    (s.regs.op = 6 → exec .opRsv6 s = .next rejected) ∧
    (s.regs.op = 7 → exec .opRsv7 s = .next rejected) ∧
    (s.status = 0x1 → rejected.status = 0x6)

/-! ## Frames of the instructions -/

/-- The instructions of the stream store nothing in memory. The G5 commands, the start of an inflate or of a G5 block, and the
deflate instructions that cannot fail change no register either (41_g5.md R142–R144: "Flags and events written: none");
FRAME, PAY.SHORT, PAY.RAW and the deflate instructions that can fail change no register but the counter and the STATUS bit
the spec names for each (44_framer.md R241; 42_resolver.md R173, R174, R177). -/
def Obligations.StreamInstructionsFrame : Prop :=
  ∀ (s t : State),
    let frame (regs : List RegName) (bits : List Nat) : Prop :=
      s.sameRegistersBut regs t ∧ s.sameStatusBut bits t ∧ s.sameMemory t ∧ s.sameHostSide t
    (∀ n, exec (.lit n) s = .next t → s.sameButUnit t) ∧
    (∀ ab n, exec (.runB ab n) s = .next t → s.sameButUnit t) ∧
    (∀ ab n, exec (.runW ab n) s = .next t → s.sameButUnit t) ∧
    (exec .payZlib7801 s = .next t → s.sameButUnit t) ∧
    (exec .payZlib789C s = .next t → s.sameButUnit t) ∧
    (exec .payZlib78DA s = .next t → s.sameButUnit t) ∧
    (∀ r c f g, exec (.payG5 r c f g) s = .next t → s.sameButUnit t) ∧
    (∀ final, exec (.dflFixed final) s = .next t → s.sameButUnit t) ∧
    (∀ sym, exec (.dflLit sym) s = .next t → s.sameButUnit t) ∧
    (exec .dflEob s = .next t → s.sameButUnit t) ∧
    (∀ l, exec (.frame l) s = .next t →
      frame [.status, .cntBlk] [3] ∧ t.cnt.applied = s.cnt.applied) ∧
    (exec .payShort s = .next t → frame [.status, .cntCodec1] [5] ∧ t.cnt.g5 = s.cnt.g5) ∧
    (∀ r c f g, exec (.payRaw r c f g) s = .next t → frame [.cntCodec0] [] ∧ t.cnt.zlib = s.cnt.zlib) ∧
    (∀ i : Instr, formatOf i = .dflBlock ∨ formatOf i = .symLit ∨ formatOf i = .symDist ∨ formatOf i = .symCl →
      exec i s = .next t → frame [.status, .cntZfail] [8])

/-- The host operations, the pixel instructions and the rotations: what each may write, and that every other register, STATUS
bit and byte is unchanged (47_host_operations.md R353, R354; 46_unpack_render.md R304, R308). -/
def Obligations.OperationAndPixelInstructionsFrame : Prop :=
  ∀ (s t : State),
    let frame (regs : List RegName) (bits : List Nat) : Prop :=
      s.sameRegistersBut regs t ∧ s.sameStatusBut bits t ∧ s.sameHostSide t
    (∀ op, exec (.ctrlSetop op) s = .next t → frame [.ctrl] [] ∧ s.sameMemory t) ∧
    (∀ op, exec (.start op) s = .next t →
      s.sameRegistersBut [.ctrl, .status, .cntBlk, .cntCodec0, .cntCodec1, .cntZfail, .g5Out, .g5In] t ∧ s.sameMemory t ∧
        s.sameHostSide t) ∧
    (∀ i : Instr, i = .nop ∨ i = .render ∨ i = .g5 ∨ i = .opRsv5 ∨ i = .opRsv6 ∨ i = .opRsv7 →
      exec i s = .next t → frame [.status] [0, 1, 2] ∧ s.sameMemory t) ∧
    (∀ i : Instr, i = .decode ∨ i = .decodeRender → exec i s = .next t →
      frame [.status, .planeState] [0, 1, 2] ∧ (∀ a, t.inByte a = s.inByte a) ∧ (∀ a, t.imgWord a = s.imgWord a) ∧
        ∀ a, s.np * s.psize ≤ a → t.pbByte a = s.pbByte a) ∧
    (∀ bpp, exec (.planeRead bpp) s = .next t → frame [.status] [12] ∧ s.sameMemory t) ∧
    (∀ bpp, exec (.indexExtract bpp) s = .next t → frame [.status] [11] ∧ s.sameMemory t) ∧
    (∀ (i : Instr) (bpp : BitVec 4), i = .rot0 bpp ∨ i = .rot1 bpp ∨ i = .rot2 bpp ∨ i = .rot3 bpp →
      exec i s = .next t → frame [.status] [0, 1] ∧ (∀ a, t.inByte a = s.inByte a) ∧ (∀ a, t.pbByte a = s.pbByte a) ∧
        ∀ a, s.w * s.h ≤ a → t.imgWord a = s.imgWord a)

/-! ## Registers and the host's accesses -/

/-- What a written register reads back as, and that no other register changes (10_state.md R24–R31, R34, R35; the spec's
layout, D2): reserved bits read 0, START reads 0, read-only and reserved registers ignore the write. -/
def Obligations.RegisterReadsBackItsFields : Prop :=
  ∀ (r r' : RegName) (v : Word) (s : State),
    (s.regWrite r v).regRead r =
      (match r with
       | .ctrl => v &&& 0x7
       | .width => v &&& 0xFFFF
       | .height => v &&& 0xFFFF
       | .fmt => v &&& 0x30F
       | .inLen => v
       | .expLen => v
       | .ctCount => v &&& 0x1FF
       | .ct _ => v &&& 0x03FFFFFF
       | .reserved => 0
       | ro => s.regRead ro) ∧
    (r' ≠ r → (s.regWrite r v).regRead r' = s.regRead r')

/-- The register map (10_state.md R22) and the legal accesses (20_memory.md R74, R75; the spec's decisions D2, D46). In IDLE and
in BUSY an access that is illegal in itself is refused under that reason; that it comes before WRITE_BUSY
(70_reset_and_hazards.md R403) is the model's choice, assumption 12. -/
def Obligations.RegisterMapAndLegalAccesses : Prop :=
  [0x000, 0x004, 0x008, 0x00C, 0x010, 0x014, 0x018, 0x01C, 0x020, 0x024, 0x028, 0x02C, 0x030, 0x034, 0x038].map regAt =
    [.ctrl, .status, .width, .height, .fmt, .inLen, .expLen, .ctCount, .cntBlk, .cntCodec0, .cntCodec1, .cntZfail, .g5Out,
      .g5In, .planeState] ∧
  (∀ off, 0x03C ≤ off → off < 0x100 → regAt off = .reserved) ∧
  (∀ i, i < 256 → regAt (0x100 + 4 * i) = .ct i) ∧
  (∀ width off : Nat, regAccessOk width off = true ↔ width = 32 ∧ off % 4 = 0 ∧ off < 0x500) ∧
  (∀ (width off : Nat) (v : Word) (s : State), width ≠ 32 ∨ off % 4 ≠ 0 ∨ 0x500 ≤ off →
    hostAct (.regRead width off) s = .refused .regAccess ∧ hostAct (.regWrite width off v) s = .refused .regAccess) ∧
  (∀ (a : Nat) (v : Byte) (s : State),
    (s.caps.inCap ≤ a → hostAct (.inRead a) s = .refused .memAccess ∧ hostAct (.inWrite a v) s = .refused .memAccess) ∧
    (s.caps.pbCap ≤ a → hostAct (.pbRead a) s = .refused .memAccess ∧ hostAct (.pbWrite a v) s = .refused .memAccess) ∧
    (s.caps.imgCap ≤ a → hostAct (.imgRead a) s = .refused .memAccess)) ∧
  (∀ (a : Nat) (v : Word) (s : State), hostAct (.imgWrite a v) s = .refused .memAccess)

/-- While BUSY every legal host write is refused, a START under its own reason (70_reset_and_hazards.md R403, R405); a STATUS
read returns BUSY, an IN read the contents, any other read some value, and no read changes anything but the model's record
of it (R404; the spec's decision D26; that STATUS reads BUSY until completion is assumption 8). -/
def Obligations.BusyHostAccesses : Prop :=
  ∀ s : State, s.busy = true →
    (∀ off v, regAccessOk 32 off = true → regAt off ≠ .ctrl →
      hostAct (.regWrite 32 off v) s = .refused .writeBusy) ∧
    (∀ v : Word, v.getLsbD 8 = false → hostAct (.regWrite 32 0 v) s = .refused .writeBusy) ∧
    (∀ v : Word, v.getLsbD 8 = true → hostAct (.regWrite 32 0 v) s = .refused .startBusy) ∧
    (∀ a v, a < s.caps.inCap → hostAct (.inWrite a v) s = .refused .writeBusy) ∧
    (∀ a v, a < s.caps.pbCap → hostAct (.pbWrite a v) s = .refused .writeBusy) ∧
    hostAct (.regRead 32 4) s = .next { s with responses := s.responses ++ [.word 0x1] } ∧
    (∀ a, a < s.caps.inCap →
      hostAct (.inRead a) s = .next { s with responses := s.responses ++ [.byte (s.inByte a)] }) ∧
    (∀ off, regAccessOk 32 off = true → regAt off ≠ .status →
      ∃ v, hostAct (.regRead 32 off) s = .next { s with responses := s.responses ++ [.word v], freeIx := s.freeIx + 1 }) ∧
    (∀ a, a < s.caps.pbCap →
      ∃ v, hostAct (.pbRead a) s = .next { s with responses := s.responses ++ [.byte v], freeIx := s.freeIx + 1 }) ∧
    (∀ a, a < s.caps.imgCap →
      ∃ v, hostAct (.imgRead a) s = .next { s with responses := s.responses ++ [.word v], freeIx := s.freeIx + 1 })

/-- In IDLE a read returns the current value and changes nothing but the model's record of it; a write to IN or PB changes only
the byte written; a register write only stores the register's fields (20_memory.md R74, R75, R77; 47_host_operations.md
R340). -/
def Obligations.IdleHostAccesses : Prop :=
  ∀ s : State, s.engine = .idle →
    (∀ off, regAccessOk 32 off = true →
      hostAct (.regRead 32 off) s = .next { s with responses := s.responses ++ [.word (s.regRead (regAt off))] }) ∧
    (∀ a, a < s.caps.inCap →
      hostAct (.inRead a) s = .next { s with responses := s.responses ++ [.byte (s.inByte a)] }) ∧
    (∀ a, a < s.caps.pbCap →
      hostAct (.pbRead a) s = .next { s with responses := s.responses ++ [.byte (s.pbByte a)] }) ∧
    (∀ a, a < s.caps.imgCap →
      hostAct (.imgRead a) s = .next { s with responses := s.responses ++ [.word (s.imgWord a)] }) ∧
    (∀ a v, a < s.caps.inCap → ∃ t, hostAct (.inWrite a v) s = .next t ∧
      (∀ b, t.inByte b = if b = a then v else s.inByte b) ∧ (∀ b, t.pbByte b = s.pbByte b) ∧
      (∀ b, t.imgWord b = s.imgWord b) ∧ t.engine = .idle ∧ s.sameRegistersBut [] t ∧ s.sameHostSide t) ∧
    (∀ a v, a < s.caps.pbCap → ∃ t, hostAct (.pbWrite a v) s = .next t ∧
      (∀ b, t.pbByte b = if b = a then v else s.pbByte b) ∧ (∀ b, t.inByte b = s.inByte b) ∧
      (∀ b, t.imgWord b = s.imgWord b) ∧ t.engine = .idle ∧ s.sameRegistersBut [] t ∧ s.sameHostSide t) ∧
    (∀ off v, regAccessOk 32 off = true → regAt off ≠ .ctrl →
      hostAct (.regWrite 32 off v) s = .next (s.regWrite (regAt off) v))

/-- Reset: every register reads 0 and the engine is IDLE (70_reset_and_hazards.md R400), after power-on and after the reset
input in any state, BUSY too (R401; the spec's decision D27). The input leaves the memories with the contents it carries, any
contents (assumption 6): an address inside the capacity holds the value of its last entry, every other address reads as an
unlisted one (assumption 5). -/
def Obligations.ResetClearsEveryRegister : Prop :=
  (State.reset.engine = .idle ∧ ∀ r, State.reset.regRead r = 0) ∧
  (∀ (s : State) (inMem pbMem : List Host.Cell) (imgMem : Memory 32),
    ∃ t, hostAct (.reset inMem pbMem imgMem) s = .next t ∧ t.engine = .idle ∧ (∀ r, t.regRead r = 0) ∧
      t.caps = s.caps ∧ s.sameHostSide t ∧
      Memory.holdsLast Config.unlistedByte s.caps.inCap inMem t.inByte ∧
      Memory.holdsLast Config.unlistedByte s.caps.pbCap pbMem t.pbByte ∧
      Memory.holdsLast Config.unlistedWord s.caps.imgCap imgMem t.imgWord)

/-! ## The whole machine -/

/-- Two memories in canonical form that read the same everywhere are the same data (the model's
own representation, assumption 5). -/
def Obligations.CanonicalMemoriesAreEqualWhenTheyReadEqual : Prop :=
  ∀ (w : Nat) (d : BitVec w) (m n : Memory w), Memory.wf d m → Memory.wf d n →
    (∀ a, Memory.read d m a = Memory.read d n a) → m = n

/-- The invariant holds after reset. -/
def Obligations.InvariantHoldsAtReset : Prop := State.reset.Inv

/-- Every step keeps the invariant, from every state that has it: memories in canonical form inside their spaces, the reserved
STATUS bits and G5FB 0, BUSY exactly in BUSY, NEXT_PLANE 0, and what each unit keeps (10_state.md R23, R33, R45, R47;
20_memory.md R70; 41_g5.md R146, R151). -/
def Obligations.EveryStepKeepsTheInvariant : Prop :=
  ∀ s t : State, s.Inv → step s = .next t → t.Inv

/-- No input stream, payload or buffer makes the engine stop (60_exceptions.md R370): from a state with the invariant the
engine's next step is always a next state, and no step of the machine is a fault. -/
def Obligations.TheEngineNeverStops : Prop :=
  ∀ s : State, s.Inv → (∃ t, engineStep s = .next t) ∧ ∀ e, step s ≠ .fault e

/-- What the engine only reads (10_state.md R41, R49): the registers the host writes, the capacities, the colour table and IN
are never changed by a step of the engine, nor is the host's side. -/
def Obligations.TheEngineNeverWritesItsInputs : Prop :=
  ∀ s t : State, engineStep s = .next t →
    t.regs = s.regs ∧ t.caps = s.caps ∧ t.ct = s.ct ∧ t.inMem = s.inMem ∧ s.sameHostSide t

/-- No step of the engine clears a STATUS bit other than BUSY: an event, once raised, stays until the next START or reset, and so
does DONE (60_exceptions.md R372, the spec's decision D21). No step lowers a counter or raises it by more than 1, and 0xFFFF
stays (10_state.md R30, decision D22). -/
def Obligations.EventsStickAndCountersSaturate : Prop :=
  ∀ s t : State, engineStep s = .next t →
    let counts (a b : BitVec 16) : Prop := b = a ∨ b.toNat = min (a.toNat + 1) 0xFFFF
    (∀ k, 1 ≤ k → s.status.getLsbD k = true → t.status.getLsbD k = true) ∧
    counts s.cnt.blocks t.cnt.blocks ∧ counts s.cnt.applied t.cnt.applied ∧ counts s.cnt.raw t.cnt.raw ∧
    counts s.cnt.zlib t.cnt.zlib ∧ counts s.cnt.g5 t.cnt.g5 ∧ counts s.cnt.skipped t.cnt.skipped ∧
    counts s.cnt.zfail t.cnt.zfail

/-- Where the engine writes (20_memory.md R71): PB below NP · PSIZE for DECODE and DECODE_RENDER, below EXPLEN for G5, nowhere
in RENDER; IMG below W · H for RENDER and DECODE_RENDER, nowhere in DECODE and G5. -/
def Obligations.TheEngineWritesInsideItsRanges : Prop :=
  ∀ s t : State, s.Inv → engineStep s = .next t →
    (s.regs.op = 1 ∨ s.regs.op = 3 → ∀ a, s.np * s.psize ≤ a → t.pbByte a = s.pbByte a) ∧
    (s.regs.op = 4 → ∀ a, s.regs.expLen.toNat ≤ a → t.pbByte a = s.pbByte a) ∧
    (s.regs.op ≠ 1 → s.regs.op ≠ 3 → s.regs.op ≠ 4 → ∀ a, t.pbByte a = s.pbByte a) ∧
    (s.regs.op = 2 ∨ s.regs.op = 3 → ∀ a, s.w * s.h ≤ a → t.imgWord a = s.imgWord a) ∧
    (s.regs.op ≠ 2 → s.regs.op ≠ 3 → ∀ a, t.imgWord a = s.imgWord a)

/-- Every operation completes, and its steps add up to the one transition the spec's pseudocode describes (47_host_operations.md
R341, R343–R350, R355; 20_memory.md R80; assumption 1): from a launched state with the invariant, some number of engine steps
reaches exactly the state `State.operation` gives, IDLE with DONE. -/
def Obligations.OperationStepsAddUpToTheTransition : Prop :=
  ∀ s : State, s.Inv → s.engine = .launched →
    ∃ k t, engineRun k s = .next t ∧ s.operation = .next t ∧ t.engine = .idle ∧ t.status.getLsbD 0 = false ∧
      t.status.getLsbD 1 = true

/-- A rendering operation writes the image its rules describe: after the one transition of an accepted RENDER, image word
(x, y) is the colour of the work-grid pixel its rotation takes it from, and PB is as before (46_unpack_render.md R290,
R299–R304, R308; 47_host_operations.md R347). -/
def Obligations.RenderWritesTheImageOfThePlanes : Prop :=
  ∀ s : State, s.Inv → s.engine = .launched → s.regs.op = 2 → s.configOk 2 = true →
    ∃ t, s.operation = .next t ∧
      (∀ x y, x < s.w → y < s.h →
        t.imgWord (y * s.w + x) = 0#8 ++ (s.pixel (s.rotSource x y).1 (s.rotSource x y).2).1) ∧
      (∀ a, s.w * s.h ≤ a → t.imgWord a = s.imgWord a) ∧
      (∀ a, t.pbByte a = s.pbByte a)
end

