-- ==== Sys2Proof/Laws/Decode.lean ====
section
/-!
SUPPORT. The byte-order lemmas: what the little-endian and big-endian fields are worth, and that each is read back from the
bytes it is written as.
-/

namespace Sys2Proof

theorem append_toNat {n m : Nat} (a : BitVec n) (b : BitVec m) : (a ++ b).toNat = a.toNat * 2 ^ m + b.toNat := by
  rw [BitVec.toNat_append, ← Nat.shiftLeft_add_eq_or_of_lt b.isLt, Nat.shiftLeft_eq]

/-- `u16le` (00_scope.md R10). -/
theorem u16le_toNat (s : Bytes) (i : Nat) :
    (u16le s i).toNat = (byteAt s i).toNat + 256 * (byteAt s (i + 1)).toNat := by
  rw [u16le, append_toNat]
  omega

/-- `u32le` (00_scope.md R10). -/
theorem u32le_toNat (s : Bytes) (i : Nat) :
    (u32le s i).toNat = (byteAt s i).toNat + 2 ^ 8 * (byteAt s (i + 1)).toNat + 2 ^ 16 * (byteAt s (i + 2)).toNat +
      2 ^ 24 * (byteAt s (i + 3)).toNat := by
  rw [u32le, append_toNat, append_toNat, append_toNat]
  omega

/-- `u32be` (00_scope.md R10). -/
theorem u32be_toNat (s : Bytes) (i : Nat) :
    (u32be s i).toNat = (byteAt s i).toNat * 2 ^ 24 + (byteAt s (i + 1)).toNat * 2 ^ 16 +
      (byteAt s (i + 2)).toNat * 2 ^ 8 + (byteAt s (i + 3)).toNat := by
  rw [u32be, append_toNat, append_toNat, append_toNat]
  omega

@[simp] theorem bytes16le_length (v : BitVec 16) : (bytes16le v).length = 2 := rfl
@[simp] theorem bytes32le_length (v : Word) : (bytes32le v).length = 4 := rfl
@[simp] theorem bytes32be_length (v : Word) : (bytes32be v).length = 4 := rfl
@[simp] theorem symbolBytes_length (s : Nat) : (symbolBytes s).length = 2 := rfl

theorem u16le_bytes16le (v : BitVec 16) (rest : Bytes) : u16le (bytes16le v ++ rest) 0 = v := by
  apply BitVec.eq_of_toNat_eq
  rw [u16le_toNat]
  have := v.isLt
  simp only [bytes16le, byteAt, List.cons_append, List.getD_cons_zero, List.getD_cons_succ, BitVec.extractLsb'_toNat,
    Nat.shiftRight_eq_div_pow]
  omega

theorem u32le_bytes32le (v : Word) (rest : Bytes) : u32le (bytes32le v ++ rest) 0 = v := by
  apply BitVec.eq_of_toNat_eq
  rw [u32le_toNat]
  have := v.isLt
  simp only [bytes32le, byteAt, List.cons_append, List.getD_cons_zero, List.getD_cons_succ, BitVec.extractLsb'_toNat,
    Nat.shiftRight_eq_div_pow]
  omega

theorem u32be_bytes32be (v : Word) (rest : Bytes) : u32be (bytes32be v ++ rest) 0 = v := by
  apply BitVec.eq_of_toNat_eq
  rw [u32be_toNat]
  have := v.isLt
  simp only [bytes32be, byteAt, List.cons_append, List.getD_cons_zero, List.getD_cons_succ, BitVec.extractLsb'_toNat,
    Nat.shiftRight_eq_div_pow]
  omega

/-- A symbol number is read back from its two bytes. -/
theorem u16le_symbolBytes {s : Nat} (h : s < 65536) : (u16le (symbolBytes s) 0).toNat = s := by
  have := u16le_bytes16le (BitVec.ofNat 16 s) []
  rw [List.append_nil] at this
  rw [symbolBytes, this, BitVec.toNat_ofNat]
  omega

end Sys2Proof
end

