-- ==== Sys2Proof/Laws/Inflate.lean ====
section
/-!
SUPPORT. The bit reader and the running checksum of the deflate decoder: what each operation answers and keeps.
-/

namespace Sys2Proof.Machine

/-- A result of a sequence comes from a result of its first part. -/
theorem bind_eq_ok {ε α β : Type} {x : Except ε α} {f : α → Except ε β} {b : β} :
    (x >>= f) = .ok b ↔ ∃ a, x = .ok a ∧ f a = .ok b := by
  cases x <;> simp [bind, Except.bind]

/-! ## The bit reader (43_inflate.md R193) -/

/-- A bit is 0 or 1, the source stays, the offset stays inside a byte, the position moves by one bit. -/
theorem bit_eq_ok {r r' : BitReader} {v : Nat} (h : r.bit = .ok (v, r')) (ht : r.t < 8) :
    v < 2 ∧ r'.src = r.src ∧ r'.t < 8 ∧ 8 * r'.q + r'.t = 8 * r.q + r.t + 1 ∧ r.q < r.src.length := by
  unfold BitReader.bit at h
  split at h
  · exact absurd h (by simp)
  · rename_i b hb
    simp only [Except.ok.injEq, Prod.mk.injEq] at h
    obtain ⟨rfl, rfl⟩ := h
    have hq : r.q < r.src.length := (List.getElem?_eq_some_iff.1 hb).1
    have hv : (b.getLsbD r.t).toNat < 2 := by cases b.getLsbD r.t <;> decide
    split <;> refine ⟨hv, rfl, ?_, ?_, hq⟩ <;> simp only <;> omega

/-- `n` bits are a number below 2^n, and the position moves by n bits. -/
theorem bits_eq_ok {n : Nat} {r r' : BitReader} {v : Nat} (h : r.bits n = .ok (v, r')) (ht : r.t < 8) :
    v < 2 ^ n ∧ r'.src = r.src ∧ r'.t < 8 ∧ 8 * r'.q + r'.t = 8 * r.q + r.t + n := by
  induction n generalizing r v r' with
  | zero =>
    simp only [BitReader.bits, Except.ok.injEq, Prod.mk.injEq] at h
    obtain ⟨rfl, rfl⟩ := h
    exact ⟨by decide, rfl, ht, rfl⟩
  | succ n ih =>
    simp only [BitReader.bits] at h
    obtain ⟨⟨b, r1⟩, hb, h⟩ := bind_eq_ok.1 h
    obtain ⟨⟨w, r2⟩, hw, h⟩ := bind_eq_ok.1 h
    simp only [pure, Except.pure, Except.ok.injEq, Prod.mk.injEq] at h
    obtain ⟨rfl, rfl⟩ := h
    obtain ⟨h1, h2, h3, h4, -⟩ := bit_eq_ok hb ht
    obtain ⟨k1, k2, k3, k4⟩ := ih hw h3
    simp only at k4
    refine ⟨by rw [pow_succ]; omega, k2.trans h2, k3, by omega⟩

/-- The first bit, then the others. -/
theorem bits_cons (n : Nat) (r : BitReader) :
    r.bits (n + 1) = r.bit >>= fun p => p.2.bits n >>= fun q => .ok (p.1 + 2 * q.1, q.2) := rfl

/-- One bit more is the same bits and then one, which is the highest. -/
theorem bits_succ (n : Nat) (r : BitReader) :
    r.bits (n + 1) = r.bits n >>= fun p => p.2.bit >>= fun q => .ok (p.1 + 2 ^ n * q.1, q.2) := by
  induction n generalizing r with
  | zero => simp [BitReader.bits, bind, Except.bind, pure, Except.pure]
  | succ n ih =>
    rw [bits_cons (n + 1), bits_cons n]
    cases r.bit with
    | error e => rfl
    | ok p =>
      simp only [bind, Except.bind, ih p.2]
      cases p.2.bits n with
      | error e => rfl
      | ok q =>
        cases hq : q.2.bit with
        | error e => simp [hq]
        | ok b => simp [hq, pow_succ]; ring

/-- Where bits can be read, fewer can. -/
theorem bits_le {m n : Nat} {r r' : BitReader} {v : Nat} (hmn : m ≤ n) (h : r.bits n = .ok (v, r')) :
    ∃ u q, r.bits m = .ok (u, q) := by
  induction n generalizing v r' with
  | zero => exact ⟨v, r', by rwa [Nat.le_zero.1 hmn]⟩
  | succ n ih =>
    rcases Nat.lt_or_eq_of_le hmn with hlt | rfl
    · rw [bits_succ] at h
      obtain ⟨⟨u, q⟩, hu, -⟩ := bind_eq_ok.1 h
      exact ih (Nat.le_of_lt_succ hlt) hu
    · exact ⟨v, r', h⟩

/-- After an alignment the offset is 0, and the position is that of the next byte boundary. -/
theorem align_eq (r : BitReader) :
    r.align = { src := r.src, q := if r.t = 0 then r.q else r.q + 1, t := 0 } := by
  cases r with
  | mk src q t =>
    unfold BitReader.align
    by_cases h : t = 0 <;> simp [h]

/-- A Huffman decode reads 1 to 15 bits. -/
theorem decodeFrom_eq_ok {T : HuffCode} {k l c s : Nat} {r r' : BitReader} (h : T.decodeFrom k l c r = .ok (s, r'))
    (ht : r.t < 8) :
    r'.src = r.src ∧ r'.t < 8 ∧ 8 * r.q + r.t + 1 ≤ 8 * r'.q + r'.t ∧ 8 * r'.q + r'.t ≤ 8 * r.q + r.t + k := by
  induction k generalizing l c r with
  | zero => exact absurd h (by simp [HuffCode.decodeFrom])
  | succ k ih =>
    simp only [HuffCode.decodeFrom] at h
    obtain ⟨⟨b, r1⟩, hb, h⟩ := bind_eq_ok.1 h
    obtain ⟨-, h2, h3, h4, -⟩ := bit_eq_ok hb ht
    simp only at h
    split at h
    · simp only [pure, Except.pure, Except.ok.injEq, Prod.mk.injEq] at h
      obtain ⟨-, rfl⟩ := h
      exact ⟨h2, h3, by omega, by omega⟩
    · obtain ⟨k1, k2, k3, k4⟩ := ih h h3
      exact ⟨k1.trans h2, k2, by omega, by omega⟩

/-- A code found by its length and bits is an entry. -/
theorem lookup_eq_some {T : HuffCode} {l c s : Nat} (h : T.lookup l c = some s) :
    ∃ e ∈ T, e.len = l ∧ e.code = c ∧ e.sym = s := by
  obtain ⟨e, he, rfl⟩ := Option.map_eq_some_iff.1 h
  have hp := List.find?_some he
  simp only [Bool.and_eq_true, beq_iff_eq] at hp
  exact ⟨e, List.mem_of_find?_eq_some he, hp.1, hp.2, rfl⟩

/-- No code is found where no entry has the length and bits. -/
theorem lookup_eq_none {T : HuffCode} {l c : Nat} : T.lookup l c = none ↔ ∀ e ∈ T, ¬ (e.len = l ∧ e.code = c) := by
  simp [HuffCode.lookup]

/-! ## The assignment of codes (43_inflate.md R195) -/

/-- An entry's symbol is the place of its length in the list, and the length is not 0. -/
theorem assignCodes_mem {next lens : List Nat} {s : Nat} {e : CodeEntry} (h : e ∈ assignCodes next s lens) :
    e.len ≠ 0 ∧ s ≤ e.sym ∧ lens[e.sym - s]? = some e.len := by
  induction lens generalizing next s with
  | nil => simp [assignCodes] at h
  | cons l ls ih =>
    have tail : ∀ {next}, e ∈ assignCodes next (s + 1) ls → e.len ≠ 0 ∧ s ≤ e.sym ∧ (l :: ls)[e.sym - s]? = some e.len := by
      intro next h
      obtain ⟨h0, h1, h2⟩ := ih h
      refine ⟨h0, by omega, ?_⟩
      rw [show e.sym - s = (e.sym - (s + 1)) + 1 by omega]
      simpa using h2
    rw [assignCodes] at h
    split at h
    · exact tail h
    · rcases List.mem_cons.1 h with rfl | h
      · exact ⟨‹_›, Nat.le_refl _, by simp⟩
      · exact tail h

/-- Every non-zero length gives its symbol one entry and no second. -/
theorem assignCodes_sym {next lens : List Nat} {s i l : Nat} (hi : lens[i]? = some l) (hl : l ≠ 0) :
    ∃ e ∈ assignCodes next s lens, e.sym = s + i ∧ ∀ f ∈ assignCodes next s lens, f.sym = s + i → f = e := by
  induction lens generalizing next s i with
  | nil => simp at hi
  | cons k ls ih =>
    cases i with
    | zero =>
      obtain rfl : k = l := by simpa using hi
      rw [assignCodes, if_neg hl]
      refine ⟨_, List.mem_cons_self, rfl, fun f hf hs => ?_⟩
      rcases List.mem_cons.1 hf with rfl | hf
      · rfl
      · have := (assignCodes_mem hf).2.1
        omega
    | succ i =>
      have hi : ls[i]? = some l := by simpa using hi
      rw [assignCodes]
      split
      · obtain ⟨e, he, hs, hu⟩ := ih (next := next) (s := s + 1) hi
        exact ⟨e, he, by omega, fun f hf hs => hu f hf (by omega)⟩
      · obtain ⟨e, he, hs, hu⟩ := ih (next := next.set k (next.getD k 0 + 1)) (s := s + 1) hi
        refine ⟨e, List.mem_cons_of_mem _ he, by omega, fun f hf hfs => ?_⟩
        rcases List.mem_cons.1 hf with rfl | hf
        · simp only at hfs
          omega
        · exact hu f hf (by omega)

/-! ## The running checksum (43_inflate.md R216) -/

@[simp] theorem feed_nil (a : AdlerSums) : a.feed [] = a := rfl

@[simp] theorem feed_append (a : AdlerSums) (d e : Bytes) : a.feed (d ++ e) = (a.feed d).feed e := by
  simp [AdlerSums.feed]

/-- The sums of produced bytes follow the bytes. -/
theorem emit_adler {z : Inflate} {a : AdlerSums} (h : z.adler = a.feed z.out) (d : Bytes) :
    (z.emit d).adler = a.feed (z.emit d).out := by
  simp [Inflate.emit, h]

/-! ## The copy (43_inflate.md R213) -/

theorem copyBack_length (dist n : Nat) (out : Bytes) : (copyBack dist n out).length = out.length + n := by
  induction n generalizing out with
  | zero => rfl
  | succ n ih => rw [copyBack, ih, List.length_append, List.length_singleton]; omega

/-- The copy only appends. -/
theorem copyBack_prefix (dist n : Nat) (out : Bytes) : out <+: copyBack dist n out := by
  induction n generalizing out with
  | zero => exact List.prefix_rfl
  | succ n ih => exact (List.prefix_append _ _).trans (ih _)

end Sys2Proof.Machine
end

