-- ==== Sys2Proof/Laws/Memory.lean ====
section
/-!
SUPPORT. The laws of the canonical memories: what a read finds after a write, and that every operation keeps the canonical
form and the bound on the addresses.
-/

namespace Sys2Proof.Machine

variable {w : Nat} {d : BitVec w}

/-! ## Reads -/

@[simp] theorem Memory.read_nil (a : Nat) : Memory.read d [] a = d := rfl

/-- Where no entry has the address, the read is that of an unlisted one. -/
theorem Memory.read_unlisted {m : Memory w} {a : Nat} (h : ∀ c ∈ m, c.1 ≠ a) : Memory.read d m a = d := by
  induction m with
  | nil => rfl
  | cons c m ih =>
    obtain ⟨k, v⟩ := c
    have hk : k ≠ a := h (k, v) (by simp)
    simp [Memory.read, hk, ih fun c hc => h c (by simp [hc])]

/-- Entries in front that have other addresses are passed over. -/
theorem Memory.read_append_right {m n : Memory w} {a : Nat} (h : ∀ c ∈ m, c.1 ≠ a) :
    Memory.read d (m ++ n) a = Memory.read d n a := by
  induction m with
  | nil => rfl
  | cons c m ih =>
    obtain ⟨k, v⟩ := c
    have hk : k ≠ a := h (k, v) (by simp)
    simp [Memory.read, hk, ih fun c hc => h c (by simp [hc])]

/-- Entries behind that have other addresses are never reached. -/
theorem Memory.read_append_left {m n : Memory w} {a : Nat} (h : ∀ c ∈ n, c.1 ≠ a) :
    Memory.read d (m ++ n) a = Memory.read d m a := by
  induction m with
  | nil => exact Memory.read_unlisted h
  | cons c m ih =>
    obtain ⟨k, v⟩ := c
    simp [Memory.read, ih]

/-- Dropping entries of other addresses changes no read. -/
theorem Memory.read_filter {m : Memory w} {a : Nat} {p : Nat × BitVec w → Bool} (h : ∀ v, p (a, v) = true) :
    Memory.read d (m.filter p) a = Memory.read d m a := by
  induction m with
  | nil => rfl
  | cons c m ih =>
    obtain ⟨k, v⟩ := c
    by_cases hk : k = a
    · subst hk; simp [Memory.read, h]
    · cases hp : p (k, v) <;> simp [Memory.read, hk, hp, ih]

/-! ## The cells of a write -/

theorem Memory.cells_range {a : Nat} {vs : List (BitVec w)} :
    ∀ c ∈ Memory.cells d a vs, a ≤ c.1 ∧ c.1 < a + vs.length ∧ c.2 ≠ d := by
  induction vs generalizing a with
  | nil => simp [Memory.cells]
  | cons v vs ih =>
    intro c hc
    by_cases hv : v = d
    · rw [Memory.cells, if_pos hv] at hc
      have := ih c hc
      simp only [List.length_cons]
      exact ⟨by omega, by omega, this.2.2⟩
    · rw [Memory.cells, if_neg hv, List.mem_cons] at hc
      rcases hc with rfl | hc
      · simp [hv]
      · have := ih c hc
        simp only [List.length_cons]
        exact ⟨by omega, by omega, this.2.2⟩

theorem Memory.read_cells {a k : Nat} {vs : List (BitVec w)} (hk : k < vs.length) :
    Memory.read d (Memory.cells d a vs) (a + k) = vs[k] := by
  induction vs generalizing a k with
  | nil => simp at hk
  | cons v vs ih =>
    cases k with
    | zero =>
      by_cases hv : v = d
      · rw [Memory.cells, if_pos hv]
        refine (Memory.read_unlisted fun c hc => ?_).trans (by simp [hv])
        have := Memory.cells_range c hc
        omega
      · rw [Memory.cells, if_neg hv]; simp [Memory.read]
    | succ k =>
      have hk' : k < vs.length := by simpa using hk
      have := ih (a := a + 1) hk'
      rw [show a + 1 + k = a + (k + 1) by omega] at this
      by_cases hv : v = d
      · rw [Memory.cells, if_pos hv]; simpa using this
      · rw [Memory.cells, if_neg hv]
        simp [Memory.read, this]

theorem Memory.cells_sorted {a : Nat} {vs : List (BitVec w)} :
    (Memory.cells d a vs).Pairwise (fun p q => p.1 < q.1) := by
  induction vs generalizing a with
  | nil => simp [Memory.cells]
  | cons v vs ih =>
    by_cases hv : v = d
    · rw [Memory.cells, if_pos hv]; exact ih
    · rw [Memory.cells, if_neg hv]
      refine List.pairwise_cons.2 ⟨fun c hc => ?_, ih⟩
      have := Memory.cells_range c hc
      show a < c.1
      omega

/-! ## Reads after writes -/

/-- A written unit reads as the value written. -/
theorem Memory.read_write_inside {m : Memory w} {a k : Nat} {vs : List (BitVec w)} (hk : k < vs.length) :
    Memory.read d (Memory.write d m a vs) (a + k) = vs[k] := by
  rw [Memory.write, List.append_assoc, Memory.read_append_right, Memory.read_append_left, Memory.read_cells hk]
  · intro c hc
    have := (List.mem_filter.1 hc).2
    simp only [decide_eq_true_eq] at this
    omega
  · intro c hc
    have := (List.mem_filter.1 hc).2
    simp only [decide_eq_true_eq] at this
    omega

/-- Every other unit reads as before. -/
theorem Memory.read_write_outside {m : Memory w} {a b : Nat} {vs : List (BitVec w)}
    (h : b < a ∨ a + vs.length ≤ b) : Memory.read d (Memory.write d m a vs) b = Memory.read d m b := by
  have hc : ∀ c ∈ Memory.cells d a vs, c.1 ≠ b := fun c hc => by
    have := Memory.cells_range c hc
    omega
  rcases h with h | h
  · rw [Memory.write, List.append_assoc, Memory.read_append_left, Memory.read_filter (by simp [h])]
    intro c hm
    rcases List.mem_append.1 hm with hm | hm
    · exact hc c hm
    · have := (List.mem_filter.1 hm).2
      simp only [decide_eq_true_eq] at this
      omega
  · rw [Memory.write, Memory.read_append_right, Memory.read_filter (by simp [h])]
    intro c hm
    rcases List.mem_append.1 hm with hm | hm
    · have := (List.mem_filter.1 hm).2
      simp only [decide_eq_true_eq] at this
      omega
    · exact hc c hm

/-- A write of one unit. -/
theorem Memory.read_write_one {m : Memory w} {a b : Nat} {v : BitVec w} :
    Memory.read d (Memory.write d m a [v]) b = if b = a then v else Memory.read d m b := by
  by_cases h : b = a
  · subst h
    have := Memory.read_write_inside (d := d) (m := m) (a := b) (k := 0) (vs := [v]) (by simp)
    simpa using this
  · rw [if_neg h]
    exact Memory.read_write_outside (by simp; omega)

/-- Cleared units read as unlisted ones, every other as before. -/
theorem Memory.read_clear {m : Memory w} {a n b : Nat} :
    Memory.read d (Memory.clear m a n) b = if a ≤ b ∧ b < a + n then d else Memory.read d m b := by
  by_cases h : a ≤ b ∧ b < a + n
  · rw [if_pos h, Memory.clear]
    refine Memory.read_unlisted fun c hc => ?_
    have := (List.mem_filter.1 hc).2
    simp only [decide_eq_true_eq] at this
    omega
  · rw [if_neg h, Memory.clear]
    exact Memory.read_filter fun _ => by simp only [decide_eq_true_eq]; omega

/-- Loading entries leaves an address outside the space, or without an entry, as it was. -/
theorem Memory.read_ofCells_other {n a : Nat} {cs : List (Nat × BitVec w)} {m : Memory w}
    (h : n ≤ a ∨ ∀ c ∈ cs, c.1 ≠ a) : Memory.read d (Memory.ofCells d n cs m) a = Memory.read d m a := by
  induction cs generalizing m with
  | nil => rfl
  | cons c cs ih =>
    obtain ⟨k, v⟩ := c
    rw [Memory.ofCells, ih (h.imp_right fun h c hc => h c (by simp [hc]))]
    split
    · have hk : a ≠ k := by
        rcases h with h | h
        · omega
        · exact fun e => h (k, v) (by simp) e.symm
      rw [Memory.read_write_one, if_neg hk]
    · rfl

/-- Loading entries leaves an address of the space with the value of its last entry. -/
theorem Memory.read_ofCells_last {n a : Nat} {v : BitVec w} {before after : List (Nat × BitVec w)} {m : Memory w}
    (ha : a < n) (h : ∀ c ∈ after, c.1 ≠ a) :
    Memory.read d (Memory.ofCells d n (before ++ (a, v) :: after) m) a = v := by
  induction before generalizing m with
  | nil => rw [List.nil_append, Memory.ofCells, Memory.read_ofCells_other (.inr h), if_pos ha, Memory.read_write_one, if_pos rfl]
  | cons c cs ih => exact ih

/-! ## The canonical form -/

theorem Memory.wf_nil : Memory.wf d [] := by simp [Memory.wf]

theorem Memory.wf_filter {m : Memory w} (h : Memory.wf d m) (p : Nat × BitVec w → Bool) : Memory.wf d (m.filter p) :=
  ⟨h.1.filter p, fun c hc => h.2 c (List.mem_filter.1 hc).1⟩

/-- A write keeps the canonical form. -/
theorem Memory.wf_write {m : Memory w} (h : Memory.wf d m) (a : Nat) (vs : List (BitVec w)) :
    Memory.wf d (Memory.write d m a vs) := by
  have lo : ∀ c ∈ m.filter (fun c => decide (c.1 < a)), c.1 < a := fun c hc => by
    simpa using (List.mem_filter.1 hc).2
  have hi : ∀ c ∈ m.filter (fun c => decide (a + vs.length ≤ c.1)), a + vs.length ≤ c.1 := fun c hc => by
    simpa using (List.mem_filter.1 hc).2
  have mid := Memory.cells_range (d := d) (a := a) (vs := vs)
  refine ⟨?_, ?_⟩
  · rw [Memory.write, List.pairwise_append, List.pairwise_append]
    refine ⟨⟨(Memory.wf_filter h _).1, Memory.cells_sorted, ?_⟩, (Memory.wf_filter h _).1, ?_⟩
    · intro p hp q hq
      have := lo p hp; have := mid q hq
      omega
    · intro p hp q hq
      have hq := hi q hq
      rcases List.mem_append.1 hp with hp | hp
      · have := lo p hp
        omega
      · have := mid p hp
        omega
  · intro c hc
    rw [Memory.write, List.mem_append, List.mem_append] at hc
    rcases hc with (hc | hc) | hc
    · exact (Memory.wf_filter h _).2 c hc
    · exact (mid c hc).2.2
    · exact (Memory.wf_filter h _).2 c hc

/-- A clear keeps the canonical form. -/
theorem Memory.wf_clear {m : Memory w} (h : Memory.wf d m) (a n : Nat) : Memory.wf d (Memory.clear m a n) :=
  Memory.wf_filter h _

/-- A write inside a bound keeps the bound. -/
theorem Memory.below_write {m : Memory w} {n : Nat} (h : Memory.below m n) {a : Nat} {vs : List (BitVec w)}
    (ha : a + vs.length ≤ n) : Memory.below (Memory.write d m a vs) n := by
  intro c hc
  rw [Memory.write, List.mem_append, List.mem_append] at hc
  rcases hc with (hc | hc) | hc
  · exact h c (List.mem_filter.1 hc).1
  · have := Memory.cells_range c hc
    omega
  · exact h c (List.mem_filter.1 hc).1

/-- A clear keeps every bound. -/
theorem Memory.below_clear {m : Memory w} {n : Nat} (h : Memory.below m n) (a k : Nat) :
    Memory.below (Memory.clear m a k) n := fun c hc => h c (List.mem_filter.1 hc).1

/-- A memory built from entries is canonical. -/
theorem Memory.wf_ofCells {n : Nat} {cs : List (Nat × BitVec w)} {m : Memory w} (h : Memory.wf d m) :
    Memory.wf d (Memory.ofCells d n cs m) := by
  induction cs generalizing m with
  | nil => exact h
  | cons c cs ih =>
    obtain ⟨k, v⟩ := c
    refine ih ?_
    split
    · exact Memory.wf_write h _ _
    · exact h

/-- A memory built from entries holds nothing outside its space. -/
theorem Memory.below_ofCells {n : Nat} {cs : List (Nat × BitVec w)} {m : Memory w} (h : Memory.below m n) :
    Memory.below (Memory.ofCells d n cs m) n := by
  induction cs generalizing m with
  | nil => exact h
  | cons c cs ih =>
    obtain ⟨k, v⟩ := c
    refine ih ?_
    split
    · exact Memory.below_write h (by simpa using ‹k < n›)
    · exact h

end Sys2Proof.Machine
end

