-- ==== Sys2Proof/Laws/State.lean ====
section
/-!
SUPPORT. One lemma per field of `State` per update of Flags.lean and Ops.lean, so that no proof unfolds a record update.
-/

namespace Sys2Proof.Machine

variable (s : State)

/-! ## raise -/

@[simp] theorem State.raise_caps (e : Event) : (s.raise e).caps = s.caps := rfl
@[simp] theorem State.raise_regs (e : Event) : (s.raise e).regs = s.regs := rfl
@[simp] theorem State.raise_ct (e : Event) : (s.raise e).ct = s.ct := rfl
@[simp] theorem State.raise_status (e : Event) : (s.raise e).status = s.status ||| (1#32 <<< e.code) := rfl
@[simp] theorem State.raise_cnt (e : Event) : (s.raise e).cnt = s.cnt := rfl
@[simp] theorem State.raise_g5Out (e : Event) : (s.raise e).g5Out = s.g5Out := rfl
@[simp] theorem State.raise_g5In (e : Event) : (s.raise e).g5In = s.g5In := rfl
@[simp] theorem State.raise_nextPlane (e : Event) : (s.raise e).nextPlane = s.nextPlane := rfl
@[simp] theorem State.raise_inMem (e : Event) : (s.raise e).inMem = s.inMem := rfl
@[simp] theorem State.raise_pbMem (e : Event) : (s.raise e).pbMem = s.pbMem := rfl
@[simp] theorem State.raise_imgMem (e : Event) : (s.raise e).imgMem = s.imgMem := rfl
@[simp] theorem State.raise_engine (e : Event) : (s.raise e).engine = s.engine := rfl
@[simp] theorem State.raise_inputs (e : Event) : (s.raise e).inputs = s.inputs := rfl
@[simp] theorem State.raise_responses (e : Event) : (s.raise e).responses = s.responses := rfl
@[simp] theorem State.raise_freeIx (e : Event) : (s.raise e).freeIx = s.freeIx := rfl

/-! ## raiseIf -/

@[simp] theorem State.raiseIf_caps (c : Bool) (e : Event) : (s.raiseIf c e).caps = s.caps := by cases c <;> rfl
@[simp] theorem State.raiseIf_regs (c : Bool) (e : Event) : (s.raiseIf c e).regs = s.regs := by cases c <;> rfl
@[simp] theorem State.raiseIf_ct (c : Bool) (e : Event) : (s.raiseIf c e).ct = s.ct := by cases c <;> rfl
@[simp] theorem State.raiseIf_status (c : Bool) (e : Event) : (s.raiseIf c e).status = if c then s.status ||| (1#32 <<< e.code) else s.status := by cases c <;> rfl
@[simp] theorem State.raiseIf_cnt (c : Bool) (e : Event) : (s.raiseIf c e).cnt = s.cnt := by cases c <;> rfl
@[simp] theorem State.raiseIf_g5Out (c : Bool) (e : Event) : (s.raiseIf c e).g5Out = s.g5Out := by cases c <;> rfl
@[simp] theorem State.raiseIf_g5In (c : Bool) (e : Event) : (s.raiseIf c e).g5In = s.g5In := by cases c <;> rfl
@[simp] theorem State.raiseIf_nextPlane (c : Bool) (e : Event) : (s.raiseIf c e).nextPlane = s.nextPlane := by cases c <;> rfl
@[simp] theorem State.raiseIf_inMem (c : Bool) (e : Event) : (s.raiseIf c e).inMem = s.inMem := by cases c <;> rfl
@[simp] theorem State.raiseIf_pbMem (c : Bool) (e : Event) : (s.raiseIf c e).pbMem = s.pbMem := by cases c <;> rfl
@[simp] theorem State.raiseIf_imgMem (c : Bool) (e : Event) : (s.raiseIf c e).imgMem = s.imgMem := by cases c <;> rfl
@[simp] theorem State.raiseIf_engine (c : Bool) (e : Event) : (s.raiseIf c e).engine = s.engine := by cases c <;> rfl
@[simp] theorem State.raiseIf_inputs (c : Bool) (e : Event) : (s.raiseIf c e).inputs = s.inputs := by cases c <;> rfl
@[simp] theorem State.raiseIf_responses (c : Bool) (e : Event) : (s.raiseIf c e).responses = s.responses := by cases c <;> rfl
@[simp] theorem State.raiseIf_freeIx (c : Bool) (e : Event) : (s.raiseIf c e).freeIx = s.freeIx := by cases c <;> rfl

/-! ## count -/

@[simp] theorem State.count_caps (f : Counters → Counters) : (s.count f).caps = s.caps := rfl
@[simp] theorem State.count_regs (f : Counters → Counters) : (s.count f).regs = s.regs := rfl
@[simp] theorem State.count_ct (f : Counters → Counters) : (s.count f).ct = s.ct := rfl
@[simp] theorem State.count_status (f : Counters → Counters) : (s.count f).status = s.status := rfl
@[simp] theorem State.count_cnt (f : Counters → Counters) : (s.count f).cnt = f s.cnt := rfl
@[simp] theorem State.count_g5Out (f : Counters → Counters) : (s.count f).g5Out = s.g5Out := rfl
@[simp] theorem State.count_g5In (f : Counters → Counters) : (s.count f).g5In = s.g5In := rfl
@[simp] theorem State.count_nextPlane (f : Counters → Counters) : (s.count f).nextPlane = s.nextPlane := rfl
@[simp] theorem State.count_inMem (f : Counters → Counters) : (s.count f).inMem = s.inMem := rfl
@[simp] theorem State.count_pbMem (f : Counters → Counters) : (s.count f).pbMem = s.pbMem := rfl
@[simp] theorem State.count_imgMem (f : Counters → Counters) : (s.count f).imgMem = s.imgMem := rfl
@[simp] theorem State.count_engine (f : Counters → Counters) : (s.count f).engine = s.engine := rfl
@[simp] theorem State.count_inputs (f : Counters → Counters) : (s.count f).inputs = s.inputs := rfl
@[simp] theorem State.count_responses (f : Counters → Counters) : (s.count f).responses = s.responses := rfl
@[simp] theorem State.count_freeIx (f : Counters → Counters) : (s.count f).freeIx = s.freeIx := rfl

/-! ## setEngine -/

@[simp] theorem State.setEngine_caps (e : Engine) : (s.setEngine e).caps = s.caps := rfl
@[simp] theorem State.setEngine_regs (e : Engine) : (s.setEngine e).regs = s.regs := rfl
@[simp] theorem State.setEngine_ct (e : Engine) : (s.setEngine e).ct = s.ct := rfl
@[simp] theorem State.setEngine_status (e : Engine) : (s.setEngine e).status = s.status := rfl
@[simp] theorem State.setEngine_cnt (e : Engine) : (s.setEngine e).cnt = s.cnt := rfl
@[simp] theorem State.setEngine_g5Out (e : Engine) : (s.setEngine e).g5Out = s.g5Out := rfl
@[simp] theorem State.setEngine_g5In (e : Engine) : (s.setEngine e).g5In = s.g5In := rfl
@[simp] theorem State.setEngine_nextPlane (e : Engine) : (s.setEngine e).nextPlane = s.nextPlane := rfl
@[simp] theorem State.setEngine_inMem (e : Engine) : (s.setEngine e).inMem = s.inMem := rfl
@[simp] theorem State.setEngine_pbMem (e : Engine) : (s.setEngine e).pbMem = s.pbMem := rfl
@[simp] theorem State.setEngine_imgMem (e : Engine) : (s.setEngine e).imgMem = s.imgMem := rfl
@[simp] theorem State.setEngine_engine (e : Engine) : (s.setEngine e).engine = e := rfl
@[simp] theorem State.setEngine_inputs (e : Engine) : (s.setEngine e).inputs = s.inputs := rfl
@[simp] theorem State.setEngine_responses (e : Engine) : (s.setEngine e).responses = s.responses := rfl
@[simp] theorem State.setEngine_freeIx (e : Engine) : (s.setEngine e).freeIx = s.freeIx := rfl

/-! ## startSequence -/

@[simp] theorem State.startSequence_caps : s.startSequence.caps = s.caps := rfl
@[simp] theorem State.startSequence_regs : s.startSequence.regs = s.regs := rfl
@[simp] theorem State.startSequence_ct : s.startSequence.ct = s.ct := rfl
@[simp] theorem State.startSequence_status : s.startSequence.status = busyBit := rfl
@[simp] theorem State.startSequence_cnt : s.startSequence.cnt = Counters.zero := rfl
@[simp] theorem State.startSequence_g5Out : s.startSequence.g5Out = 0 := rfl
@[simp] theorem State.startSequence_g5In : s.startSequence.g5In = 0 := rfl
@[simp] theorem State.startSequence_nextPlane : s.startSequence.nextPlane = s.nextPlane := rfl
@[simp] theorem State.startSequence_inMem : s.startSequence.inMem = s.inMem := rfl
@[simp] theorem State.startSequence_pbMem : s.startSequence.pbMem = s.pbMem := rfl
@[simp] theorem State.startSequence_imgMem : s.startSequence.imgMem = s.imgMem := rfl
@[simp] theorem State.startSequence_engine : s.startSequence.engine = .launched := rfl
@[simp] theorem State.startSequence_inputs : s.startSequence.inputs = s.inputs := rfl
@[simp] theorem State.startSequence_responses : s.startSequence.responses = s.responses := rfl
@[simp] theorem State.startSequence_freeIx : s.startSequence.freeIx = s.freeIx := rfl

/-! ## complete -/

@[simp] theorem State.complete_caps : s.complete.caps = s.caps := rfl
@[simp] theorem State.complete_regs : s.complete.regs = s.regs := rfl
@[simp] theorem State.complete_ct : s.complete.ct = s.ct := rfl
@[simp] theorem State.complete_status : s.complete.status = (s.status &&& ~~~busyBit) ||| doneBit := rfl
@[simp] theorem State.complete_cnt : s.complete.cnt = s.cnt := rfl
@[simp] theorem State.complete_g5Out : s.complete.g5Out = s.g5Out := rfl
@[simp] theorem State.complete_g5In : s.complete.g5In = s.g5In := rfl
@[simp] theorem State.complete_nextPlane : s.complete.nextPlane = s.nextPlane := rfl
@[simp] theorem State.complete_inMem : s.complete.inMem = s.inMem := rfl
@[simp] theorem State.complete_pbMem : s.complete.pbMem = s.pbMem := rfl
@[simp] theorem State.complete_imgMem : s.complete.imgMem = s.imgMem := rfl
@[simp] theorem State.complete_engine : s.complete.engine = .idle := rfl
@[simp] theorem State.complete_inputs : s.complete.inputs = s.inputs := rfl
@[simp] theorem State.complete_responses : s.complete.responses = s.responses := rfl
@[simp] theorem State.complete_freeIx : s.complete.freeIx = s.freeIx := rfl

/-! ## cfgError -/

@[simp] theorem State.cfgError_caps : s.cfgError.caps = s.caps := rfl
@[simp] theorem State.cfgError_regs : s.cfgError.regs = s.regs := rfl
@[simp] theorem State.cfgError_ct : s.cfgError.ct = s.ct := rfl
@[simp] theorem State.cfgError_status : s.cfgError.status = ((s.status ||| 4#32) &&& ~~~busyBit) ||| doneBit := rfl
@[simp] theorem State.cfgError_cnt : s.cfgError.cnt = s.cnt := rfl
@[simp] theorem State.cfgError_g5Out : s.cfgError.g5Out = s.g5Out := rfl
@[simp] theorem State.cfgError_g5In : s.cfgError.g5In = s.g5In := rfl
@[simp] theorem State.cfgError_nextPlane : s.cfgError.nextPlane = s.nextPlane := rfl
@[simp] theorem State.cfgError_inMem : s.cfgError.inMem = s.inMem := rfl
@[simp] theorem State.cfgError_pbMem : s.cfgError.pbMem = s.pbMem := rfl
@[simp] theorem State.cfgError_imgMem : s.cfgError.imgMem = s.imgMem := rfl
@[simp] theorem State.cfgError_engine : s.cfgError.engine = .idle := rfl
@[simp] theorem State.cfgError_inputs : s.cfgError.inputs = s.inputs := rfl
@[simp] theorem State.cfgError_responses : s.cfgError.responses = s.responses := rfl
@[simp] theorem State.cfgError_freeIx : s.cfgError.freeIx = s.freeIx := rfl

/-! ## setRegs -/

@[simp] theorem State.setRegs_caps (f : Regs → Regs) : (s.setRegs f).caps = s.caps := rfl
@[simp] theorem State.setRegs_regs (f : Regs → Regs) : (s.setRegs f).regs = f s.regs := rfl
@[simp] theorem State.setRegs_ct (f : Regs → Regs) : (s.setRegs f).ct = s.ct := rfl
@[simp] theorem State.setRegs_status (f : Regs → Regs) : (s.setRegs f).status = s.status := rfl
@[simp] theorem State.setRegs_cnt (f : Regs → Regs) : (s.setRegs f).cnt = s.cnt := rfl
@[simp] theorem State.setRegs_g5Out (f : Regs → Regs) : (s.setRegs f).g5Out = s.g5Out := rfl
@[simp] theorem State.setRegs_g5In (f : Regs → Regs) : (s.setRegs f).g5In = s.g5In := rfl
@[simp] theorem State.setRegs_nextPlane (f : Regs → Regs) : (s.setRegs f).nextPlane = s.nextPlane := rfl
@[simp] theorem State.setRegs_inMem (f : Regs → Regs) : (s.setRegs f).inMem = s.inMem := rfl
@[simp] theorem State.setRegs_pbMem (f : Regs → Regs) : (s.setRegs f).pbMem = s.pbMem := rfl
@[simp] theorem State.setRegs_imgMem (f : Regs → Regs) : (s.setRegs f).imgMem = s.imgMem := rfl
@[simp] theorem State.setRegs_engine (f : Regs → Regs) : (s.setRegs f).engine = s.engine := rfl
@[simp] theorem State.setRegs_inputs (f : Regs → Regs) : (s.setRegs f).inputs = s.inputs := rfl
@[simp] theorem State.setRegs_responses (f : Regs → Regs) : (s.setRegs f).responses = s.responses := rfl
@[simp] theorem State.setRegs_freeIx (f : Regs → Regs) : (s.setRegs f).freeIx = s.freeIx := rfl

/-! ## setG5Result -/

@[simp] theorem State.setG5Result_caps (n k : Nat) : (s.setG5Result n k).caps = s.caps := rfl
@[simp] theorem State.setG5Result_regs (n k : Nat) : (s.setG5Result n k).regs = s.regs := rfl
@[simp] theorem State.setG5Result_ct (n k : Nat) : (s.setG5Result n k).ct = s.ct := rfl
@[simp] theorem State.setG5Result_status (n k : Nat) : (s.setG5Result n k).status = s.status := rfl
@[simp] theorem State.setG5Result_cnt (n k : Nat) : (s.setG5Result n k).cnt = s.cnt := rfl
@[simp] theorem State.setG5Result_g5Out (n k : Nat) : (s.setG5Result n k).g5Out = BitVec.ofNat 32 n := rfl
@[simp] theorem State.setG5Result_g5In (n k : Nat) : (s.setG5Result n k).g5In = BitVec.ofNat 32 (min k 0xFFFFFFFF) := rfl
@[simp] theorem State.setG5Result_nextPlane (n k : Nat) : (s.setG5Result n k).nextPlane = s.nextPlane := rfl
@[simp] theorem State.setG5Result_inMem (n k : Nat) : (s.setG5Result n k).inMem = s.inMem := rfl
@[simp] theorem State.setG5Result_pbMem (n k : Nat) : (s.setG5Result n k).pbMem = s.pbMem := rfl
@[simp] theorem State.setG5Result_imgMem (n k : Nat) : (s.setG5Result n k).imgMem = s.imgMem := rfl
@[simp] theorem State.setG5Result_engine (n k : Nat) : (s.setG5Result n k).engine = s.engine := rfl
@[simp] theorem State.setG5Result_inputs (n k : Nat) : (s.setG5Result n k).inputs = s.inputs := rfl
@[simp] theorem State.setG5Result_responses (n k : Nat) : (s.setG5Result n k).responses = s.responses := rfl
@[simp] theorem State.setG5Result_freeIx (n k : Nat) : (s.setG5Result n k).freeIx = s.freeIx := rfl

/-! ## setNextPlane -/

@[simp] theorem State.setNextPlane_caps (p : BitVec 1) : (s.setNextPlane p).caps = s.caps := rfl
@[simp] theorem State.setNextPlane_regs (p : BitVec 1) : (s.setNextPlane p).regs = s.regs := rfl
@[simp] theorem State.setNextPlane_ct (p : BitVec 1) : (s.setNextPlane p).ct = s.ct := rfl
@[simp] theorem State.setNextPlane_status (p : BitVec 1) : (s.setNextPlane p).status = s.status := rfl
@[simp] theorem State.setNextPlane_cnt (p : BitVec 1) : (s.setNextPlane p).cnt = s.cnt := rfl
@[simp] theorem State.setNextPlane_g5Out (p : BitVec 1) : (s.setNextPlane p).g5Out = s.g5Out := rfl
@[simp] theorem State.setNextPlane_g5In (p : BitVec 1) : (s.setNextPlane p).g5In = s.g5In := rfl
@[simp] theorem State.setNextPlane_nextPlane (p : BitVec 1) : (s.setNextPlane p).nextPlane = p := rfl
@[simp] theorem State.setNextPlane_inMem (p : BitVec 1) : (s.setNextPlane p).inMem = s.inMem := rfl
@[simp] theorem State.setNextPlane_pbMem (p : BitVec 1) : (s.setNextPlane p).pbMem = s.pbMem := rfl
@[simp] theorem State.setNextPlane_imgMem (p : BitVec 1) : (s.setNextPlane p).imgMem = s.imgMem := rfl
@[simp] theorem State.setNextPlane_engine (p : BitVec 1) : (s.setNextPlane p).engine = s.engine := rfl
@[simp] theorem State.setNextPlane_inputs (p : BitVec 1) : (s.setNextPlane p).inputs = s.inputs := rfl
@[simp] theorem State.setNextPlane_responses (p : BitVec 1) : (s.setNextPlane p).responses = s.responses := rfl
@[simp] theorem State.setNextPlane_freeIx (p : BitVec 1) : (s.setNextPlane p).freeIx = s.freeIx := rfl

/-! ## respond -/

@[simp] theorem State.respond_caps (r : HostResponse) : (s.respond r).caps = s.caps := rfl
@[simp] theorem State.respond_regs (r : HostResponse) : (s.respond r).regs = s.regs := rfl
@[simp] theorem State.respond_ct (r : HostResponse) : (s.respond r).ct = s.ct := rfl
@[simp] theorem State.respond_status (r : HostResponse) : (s.respond r).status = s.status := rfl
@[simp] theorem State.respond_cnt (r : HostResponse) : (s.respond r).cnt = s.cnt := rfl
@[simp] theorem State.respond_g5Out (r : HostResponse) : (s.respond r).g5Out = s.g5Out := rfl
@[simp] theorem State.respond_g5In (r : HostResponse) : (s.respond r).g5In = s.g5In := rfl
@[simp] theorem State.respond_nextPlane (r : HostResponse) : (s.respond r).nextPlane = s.nextPlane := rfl
@[simp] theorem State.respond_inMem (r : HostResponse) : (s.respond r).inMem = s.inMem := rfl
@[simp] theorem State.respond_pbMem (r : HostResponse) : (s.respond r).pbMem = s.pbMem := rfl
@[simp] theorem State.respond_imgMem (r : HostResponse) : (s.respond r).imgMem = s.imgMem := rfl
@[simp] theorem State.respond_engine (r : HostResponse) : (s.respond r).engine = s.engine := rfl
@[simp] theorem State.respond_inputs (r : HostResponse) : (s.respond r).inputs = s.inputs := rfl
@[simp] theorem State.respond_responses (r : HostResponse) : (s.respond r).responses = s.responses ++ [r] := rfl
@[simp] theorem State.respond_freeIx (r : HostResponse) : (s.respond r).freeIx = s.freeIx := rfl

/-! ## drawn -/

@[simp] theorem State.drawn_caps : s.drawn.caps = s.caps := rfl
@[simp] theorem State.drawn_regs : s.drawn.regs = s.regs := rfl
@[simp] theorem State.drawn_ct : s.drawn.ct = s.ct := rfl
@[simp] theorem State.drawn_status : s.drawn.status = s.status := rfl
@[simp] theorem State.drawn_cnt : s.drawn.cnt = s.cnt := rfl
@[simp] theorem State.drawn_g5Out : s.drawn.g5Out = s.g5Out := rfl
@[simp] theorem State.drawn_g5In : s.drawn.g5In = s.g5In := rfl
@[simp] theorem State.drawn_nextPlane : s.drawn.nextPlane = s.nextPlane := rfl
@[simp] theorem State.drawn_inMem : s.drawn.inMem = s.inMem := rfl
@[simp] theorem State.drawn_pbMem : s.drawn.pbMem = s.pbMem := rfl
@[simp] theorem State.drawn_imgMem : s.drawn.imgMem = s.imgMem := rfl
@[simp] theorem State.drawn_engine : s.drawn.engine = s.engine := rfl
@[simp] theorem State.drawn_inputs : s.drawn.inputs = s.inputs := rfl
@[simp] theorem State.drawn_responses : s.drawn.responses = s.responses := rfl
@[simp] theorem State.drawn_freeIx : s.drawn.freeIx = s.freeIx + 1 := rfl

/-! ## setInputs -/

@[simp] theorem State.setInputs_caps (l : List HostInput) : (s.setInputs l).caps = s.caps := rfl
@[simp] theorem State.setInputs_regs (l : List HostInput) : (s.setInputs l).regs = s.regs := rfl
@[simp] theorem State.setInputs_ct (l : List HostInput) : (s.setInputs l).ct = s.ct := rfl
@[simp] theorem State.setInputs_status (l : List HostInput) : (s.setInputs l).status = s.status := rfl
@[simp] theorem State.setInputs_cnt (l : List HostInput) : (s.setInputs l).cnt = s.cnt := rfl
@[simp] theorem State.setInputs_g5Out (l : List HostInput) : (s.setInputs l).g5Out = s.g5Out := rfl
@[simp] theorem State.setInputs_g5In (l : List HostInput) : (s.setInputs l).g5In = s.g5In := rfl
@[simp] theorem State.setInputs_nextPlane (l : List HostInput) : (s.setInputs l).nextPlane = s.nextPlane := rfl
@[simp] theorem State.setInputs_inMem (l : List HostInput) : (s.setInputs l).inMem = s.inMem := rfl
@[simp] theorem State.setInputs_pbMem (l : List HostInput) : (s.setInputs l).pbMem = s.pbMem := rfl
@[simp] theorem State.setInputs_imgMem (l : List HostInput) : (s.setInputs l).imgMem = s.imgMem := rfl
@[simp] theorem State.setInputs_engine (l : List HostInput) : (s.setInputs l).engine = s.engine := rfl
@[simp] theorem State.setInputs_inputs (l : List HostInput) : (s.setInputs l).inputs = l := rfl
@[simp] theorem State.setInputs_responses (l : List HostInput) : (s.setInputs l).responses = s.responses := rfl
@[simp] theorem State.setInputs_freeIx (l : List HostInput) : (s.setInputs l).freeIx = s.freeIx := rfl

/-! ## setInByte -/

@[simp] theorem State.setInByte_caps (a : Nat) (v : Byte) : (s.setInByte a v).caps = s.caps := rfl
@[simp] theorem State.setInByte_regs (a : Nat) (v : Byte) : (s.setInByte a v).regs = s.regs := rfl
@[simp] theorem State.setInByte_ct (a : Nat) (v : Byte) : (s.setInByte a v).ct = s.ct := rfl
@[simp] theorem State.setInByte_status (a : Nat) (v : Byte) : (s.setInByte a v).status = s.status := rfl
@[simp] theorem State.setInByte_cnt (a : Nat) (v : Byte) : (s.setInByte a v).cnt = s.cnt := rfl
@[simp] theorem State.setInByte_g5Out (a : Nat) (v : Byte) : (s.setInByte a v).g5Out = s.g5Out := rfl
@[simp] theorem State.setInByte_g5In (a : Nat) (v : Byte) : (s.setInByte a v).g5In = s.g5In := rfl
@[simp] theorem State.setInByte_nextPlane (a : Nat) (v : Byte) : (s.setInByte a v).nextPlane = s.nextPlane := rfl
@[simp] theorem State.setInByte_inMem (a : Nat) (v : Byte) : (s.setInByte a v).inMem = Memory.write Config.unlistedByte s.inMem a [v] := rfl
@[simp] theorem State.setInByte_pbMem (a : Nat) (v : Byte) : (s.setInByte a v).pbMem = s.pbMem := rfl
@[simp] theorem State.setInByte_imgMem (a : Nat) (v : Byte) : (s.setInByte a v).imgMem = s.imgMem := rfl
@[simp] theorem State.setInByte_engine (a : Nat) (v : Byte) : (s.setInByte a v).engine = s.engine := rfl
@[simp] theorem State.setInByte_inputs (a : Nat) (v : Byte) : (s.setInByte a v).inputs = s.inputs := rfl
@[simp] theorem State.setInByte_responses (a : Nat) (v : Byte) : (s.setInByte a v).responses = s.responses := rfl
@[simp] theorem State.setInByte_freeIx (a : Nat) (v : Byte) : (s.setInByte a v).freeIx = s.freeIx := rfl

/-! ## setPbBytes -/

@[simp] theorem State.setPbBytes_caps (a : Nat) (vs : Bytes) : (s.setPbBytes a vs).caps = s.caps := rfl
@[simp] theorem State.setPbBytes_regs (a : Nat) (vs : Bytes) : (s.setPbBytes a vs).regs = s.regs := rfl
@[simp] theorem State.setPbBytes_ct (a : Nat) (vs : Bytes) : (s.setPbBytes a vs).ct = s.ct := rfl
@[simp] theorem State.setPbBytes_status (a : Nat) (vs : Bytes) : (s.setPbBytes a vs).status = s.status := rfl
@[simp] theorem State.setPbBytes_cnt (a : Nat) (vs : Bytes) : (s.setPbBytes a vs).cnt = s.cnt := rfl
@[simp] theorem State.setPbBytes_g5Out (a : Nat) (vs : Bytes) : (s.setPbBytes a vs).g5Out = s.g5Out := rfl
@[simp] theorem State.setPbBytes_g5In (a : Nat) (vs : Bytes) : (s.setPbBytes a vs).g5In = s.g5In := rfl
@[simp] theorem State.setPbBytes_nextPlane (a : Nat) (vs : Bytes) : (s.setPbBytes a vs).nextPlane = s.nextPlane := rfl
@[simp] theorem State.setPbBytes_inMem (a : Nat) (vs : Bytes) : (s.setPbBytes a vs).inMem = s.inMem := rfl
@[simp] theorem State.setPbBytes_pbMem (a : Nat) (vs : Bytes) : (s.setPbBytes a vs).pbMem = Memory.write Config.unlistedByte s.pbMem a vs := rfl
@[simp] theorem State.setPbBytes_imgMem (a : Nat) (vs : Bytes) : (s.setPbBytes a vs).imgMem = s.imgMem := rfl
@[simp] theorem State.setPbBytes_engine (a : Nat) (vs : Bytes) : (s.setPbBytes a vs).engine = s.engine := rfl
@[simp] theorem State.setPbBytes_inputs (a : Nat) (vs : Bytes) : (s.setPbBytes a vs).inputs = s.inputs := rfl
@[simp] theorem State.setPbBytes_responses (a : Nat) (vs : Bytes) : (s.setPbBytes a vs).responses = s.responses := rfl
@[simp] theorem State.setPbBytes_freeIx (a : Nat) (vs : Bytes) : (s.setPbBytes a vs).freeIx = s.freeIx := rfl

/-! ## zeroPb -/

@[simp] theorem State.zeroPb_caps (a n : Nat) : (s.zeroPb a n).caps = s.caps := rfl
@[simp] theorem State.zeroPb_regs (a n : Nat) : (s.zeroPb a n).regs = s.regs := rfl
@[simp] theorem State.zeroPb_ct (a n : Nat) : (s.zeroPb a n).ct = s.ct := rfl
@[simp] theorem State.zeroPb_status (a n : Nat) : (s.zeroPb a n).status = s.status := rfl
@[simp] theorem State.zeroPb_cnt (a n : Nat) : (s.zeroPb a n).cnt = s.cnt := rfl
@[simp] theorem State.zeroPb_g5Out (a n : Nat) : (s.zeroPb a n).g5Out = s.g5Out := rfl
@[simp] theorem State.zeroPb_g5In (a n : Nat) : (s.zeroPb a n).g5In = s.g5In := rfl
@[simp] theorem State.zeroPb_nextPlane (a n : Nat) : (s.zeroPb a n).nextPlane = s.nextPlane := rfl
@[simp] theorem State.zeroPb_inMem (a n : Nat) : (s.zeroPb a n).inMem = s.inMem := rfl
@[simp] theorem State.zeroPb_pbMem (a n : Nat) : (s.zeroPb a n).pbMem = Memory.clear s.pbMem a n := rfl
@[simp] theorem State.zeroPb_imgMem (a n : Nat) : (s.zeroPb a n).imgMem = s.imgMem := rfl
@[simp] theorem State.zeroPb_engine (a n : Nat) : (s.zeroPb a n).engine = s.engine := rfl
@[simp] theorem State.zeroPb_inputs (a n : Nat) : (s.zeroPb a n).inputs = s.inputs := rfl
@[simp] theorem State.zeroPb_responses (a n : Nat) : (s.zeroPb a n).responses = s.responses := rfl
@[simp] theorem State.zeroPb_freeIx (a n : Nat) : (s.zeroPb a n).freeIx = s.freeIx := rfl

/-! ## setImgWords -/

@[simp] theorem State.setImgWords_caps (a : Nat) (vs : List Word) : (s.setImgWords a vs).caps = s.caps := rfl
@[simp] theorem State.setImgWords_regs (a : Nat) (vs : List Word) : (s.setImgWords a vs).regs = s.regs := rfl
@[simp] theorem State.setImgWords_ct (a : Nat) (vs : List Word) : (s.setImgWords a vs).ct = s.ct := rfl
@[simp] theorem State.setImgWords_status (a : Nat) (vs : List Word) : (s.setImgWords a vs).status = s.status := rfl
@[simp] theorem State.setImgWords_cnt (a : Nat) (vs : List Word) : (s.setImgWords a vs).cnt = s.cnt := rfl
@[simp] theorem State.setImgWords_g5Out (a : Nat) (vs : List Word) : (s.setImgWords a vs).g5Out = s.g5Out := rfl
@[simp] theorem State.setImgWords_g5In (a : Nat) (vs : List Word) : (s.setImgWords a vs).g5In = s.g5In := rfl
@[simp] theorem State.setImgWords_nextPlane (a : Nat) (vs : List Word) : (s.setImgWords a vs).nextPlane = s.nextPlane := rfl
@[simp] theorem State.setImgWords_inMem (a : Nat) (vs : List Word) : (s.setImgWords a vs).inMem = s.inMem := rfl
@[simp] theorem State.setImgWords_pbMem (a : Nat) (vs : List Word) : (s.setImgWords a vs).pbMem = s.pbMem := rfl
@[simp] theorem State.setImgWords_imgMem (a : Nat) (vs : List Word) : (s.setImgWords a vs).imgMem = Memory.write Config.unlistedWord s.imgMem a vs := rfl
@[simp] theorem State.setImgWords_engine (a : Nat) (vs : List Word) : (s.setImgWords a vs).engine = s.engine := rfl
@[simp] theorem State.setImgWords_inputs (a : Nat) (vs : List Word) : (s.setImgWords a vs).inputs = s.inputs := rfl
@[simp] theorem State.setImgWords_responses (a : Nat) (vs : List Word) : (s.setImgWords a vs).responses = s.responses := rfl
@[simp] theorem State.setImgWords_freeIx (a : Nat) (vs : List Word) : (s.setImgWords a vs).freeIx = s.freeIx := rfl

/-! ## regWrite -/

@[simp] theorem State.regWrite_caps (r : RegName) (v : Word) : (s.regWrite r v).caps = s.caps := by cases r <;> rfl
@[simp] theorem State.regWrite_status (r : RegName) (v : Word) : (s.regWrite r v).status = s.status := by cases r <;> rfl
@[simp] theorem State.regWrite_cnt (r : RegName) (v : Word) : (s.regWrite r v).cnt = s.cnt := by cases r <;> rfl
@[simp] theorem State.regWrite_g5Out (r : RegName) (v : Word) : (s.regWrite r v).g5Out = s.g5Out := by cases r <;> rfl
@[simp] theorem State.regWrite_g5In (r : RegName) (v : Word) : (s.regWrite r v).g5In = s.g5In := by cases r <;> rfl
@[simp] theorem State.regWrite_nextPlane (r : RegName) (v : Word) : (s.regWrite r v).nextPlane = s.nextPlane := by cases r <;> rfl
@[simp] theorem State.regWrite_inMem (r : RegName) (v : Word) : (s.regWrite r v).inMem = s.inMem := by cases r <;> rfl
@[simp] theorem State.regWrite_pbMem (r : RegName) (v : Word) : (s.regWrite r v).pbMem = s.pbMem := by cases r <;> rfl
@[simp] theorem State.regWrite_imgMem (r : RegName) (v : Word) : (s.regWrite r v).imgMem = s.imgMem := by cases r <;> rfl
@[simp] theorem State.regWrite_engine (r : RegName) (v : Word) : (s.regWrite r v).engine = s.engine := by cases r <;> rfl
@[simp] theorem State.regWrite_inputs (r : RegName) (v : Word) : (s.regWrite r v).inputs = s.inputs := by cases r <;> rfl
@[simp] theorem State.regWrite_responses (r : RegName) (v : Word) : (s.regWrite r v).responses = s.responses := by cases r <;> rfl
@[simp] theorem State.regWrite_freeIx (r : RegName) (v : Word) : (s.regWrite r v).freeIx = s.freeIx := by cases r <;> rfl

/-! ## resetInput -/

@[simp] theorem State.resetInput_caps (i p : List Host.Cell) (g : Memory 32) :
    (s.resetInput i p g).caps = s.caps := rfl
@[simp] theorem State.resetInput_regs (i p : List Host.Cell) (g : Memory 32) :
    (s.resetInput i p g).regs = Regs.reset := rfl
@[simp] theorem State.resetInput_ct (i p : List Host.Cell) (g : Memory 32) :
    (s.resetInput i p g).ct = [] := rfl
@[simp] theorem State.resetInput_status (i p : List Host.Cell) (g : Memory 32) :
    (s.resetInput i p g).status = 0 := rfl
@[simp] theorem State.resetInput_cnt (i p : List Host.Cell) (g : Memory 32) :
    (s.resetInput i p g).cnt = Counters.zero := rfl
@[simp] theorem State.resetInput_g5Out (i p : List Host.Cell) (g : Memory 32) :
    (s.resetInput i p g).g5Out = 0 := rfl
@[simp] theorem State.resetInput_g5In (i p : List Host.Cell) (g : Memory 32) :
    (s.resetInput i p g).g5In = 0 := rfl
@[simp] theorem State.resetInput_nextPlane (i p : List Host.Cell) (g : Memory 32) :
    (s.resetInput i p g).nextPlane = 0 := rfl
@[simp] theorem State.resetInput_inMem (i p : List Host.Cell) (g : Memory 32) :
    (s.resetInput i p g).inMem = Memory.ofCells Config.unlistedByte s.caps.inCap i [] := rfl
@[simp] theorem State.resetInput_pbMem (i p : List Host.Cell) (g : Memory 32) :
    (s.resetInput i p g).pbMem = Memory.ofCells Config.unlistedByte s.caps.pbCap p [] := rfl
@[simp] theorem State.resetInput_imgMem (i p : List Host.Cell) (g : Memory 32) :
    (s.resetInput i p g).imgMem = Memory.ofCells Config.unlistedWord s.caps.imgCap g [] := rfl
@[simp] theorem State.resetInput_engine (i p : List Host.Cell) (g : Memory 32) :
    (s.resetInput i p g).engine = .idle := rfl
@[simp] theorem State.resetInput_inputs (i p : List Host.Cell) (g : Memory 32) :
    (s.resetInput i p g).inputs = s.inputs := rfl
@[simp] theorem State.resetInput_responses (i p : List Host.Cell) (g : Memory 32) :
    (s.resetInput i p g).responses = s.responses := rfl
@[simp] theorem State.resetInput_freeIx (i p : List Host.Cell) (g : Memory 32) :
    (s.resetInput i p g).freeIx = s.freeIx := rfl

/-! ## What the quantities of a state depend on -/

/-- The geometry of two states with the same registers is the same (10_state.md R37–R40). -/
theorem State.geometry_congr {s t : State} (h : s.regs = t.regs) :
    s.w = t.w ∧ s.h = t.h ∧ s.b = t.b ∧ s.we = t.we ∧ s.he = t.he ∧ s.bpr = t.bpr ∧ s.np = t.np ∧ s.psize = t.psize ∧
      s.n = t.n := by
  cases s; cases t; cases h
  exact ⟨rfl, rfl, rfl, rfl, rfl, rfl, rfl, rfl, rfl⟩

/-- The configuration check reads the registers, the capacities and the colour table only (47_host_operations.md R343). -/
theorem State.configOk_congr {s t : State} (hr : s.regs = t.regs) (hc : s.caps = t.caps) (ht : s.ct = t.ct)
    (op : BitVec 3) : s.configOk op = t.configOk op := by
  cases s; cases t; cases hr; cases hc; cases ht
  rfl

/-- A decode of IN reads the IN memory only. -/
theorem State.inBytes_congr {s t : State} (h : s.inMem = t.inMem) (a n : Nat) : s.inBytes a n = t.inBytes a n := by
  cases s; cases t; cases h
  rfl

/-- The colour-table lookup reads CT and CT_COUNT only. -/
theorem State.findTag_congr {s t : State} (hr : s.regs = t.regs) (ht : s.ct = t.ct) (g : BitVec 2) :
    s.findTag g = t.findTag g := by
  cases s; cases t; cases hr; cases ht
  rfl

@[simp] theorem State.raise_w (e : Event) : (s.raise e).w = s.w := rfl
@[simp] theorem State.raise_h (e : Event) : (s.raise e).h = s.h := rfl
@[simp] theorem State.raise_b (e : Event) : (s.raise e).b = s.b := rfl
@[simp] theorem State.raise_we (e : Event) : (s.raise e).we = s.we := rfl
@[simp] theorem State.raise_he (e : Event) : (s.raise e).he = s.he := rfl
@[simp] theorem State.raise_bpr (e : Event) : (s.raise e).bpr = s.bpr := rfl
@[simp] theorem State.raise_np (e : Event) : (s.raise e).np = s.np := rfl
@[simp] theorem State.raise_psize (e : Event) : (s.raise e).psize = s.psize := rfl
@[simp] theorem State.raise_n (e : Event) : (s.raise e).n = s.n := rfl
@[simp] theorem State.count_w (f : Counters → Counters) : (s.count f).w = s.w := rfl
@[simp] theorem State.count_h (f : Counters → Counters) : (s.count f).h = s.h := rfl
@[simp] theorem State.count_b (f : Counters → Counters) : (s.count f).b = s.b := rfl
@[simp] theorem State.count_we (f : Counters → Counters) : (s.count f).we = s.we := rfl
@[simp] theorem State.count_he (f : Counters → Counters) : (s.count f).he = s.he := rfl
@[simp] theorem State.count_bpr (f : Counters → Counters) : (s.count f).bpr = s.bpr := rfl
@[simp] theorem State.count_np (f : Counters → Counters) : (s.count f).np = s.np := rfl
@[simp] theorem State.count_psize (f : Counters → Counters) : (s.count f).psize = s.psize := rfl
@[simp] theorem State.count_n (f : Counters → Counters) : (s.count f).n = s.n := rfl
@[simp] theorem State.setEngine_w (e : Engine) : (s.setEngine e).w = s.w := rfl
@[simp] theorem State.setEngine_h (e : Engine) : (s.setEngine e).h = s.h := rfl
@[simp] theorem State.setEngine_b (e : Engine) : (s.setEngine e).b = s.b := rfl
@[simp] theorem State.setEngine_we (e : Engine) : (s.setEngine e).we = s.we := rfl
@[simp] theorem State.setEngine_he (e : Engine) : (s.setEngine e).he = s.he := rfl
@[simp] theorem State.setEngine_bpr (e : Engine) : (s.setEngine e).bpr = s.bpr := rfl
@[simp] theorem State.setEngine_np (e : Engine) : (s.setEngine e).np = s.np := rfl
@[simp] theorem State.setEngine_psize (e : Engine) : (s.setEngine e).psize = s.psize := rfl
@[simp] theorem State.setEngine_n (e : Engine) : (s.setEngine e).n = s.n := rfl
@[simp] theorem State.setNextPlane_w (p : BitVec 1) : (s.setNextPlane p).w = s.w := rfl
@[simp] theorem State.setNextPlane_h (p : BitVec 1) : (s.setNextPlane p).h = s.h := rfl
@[simp] theorem State.setNextPlane_b (p : BitVec 1) : (s.setNextPlane p).b = s.b := rfl
@[simp] theorem State.setNextPlane_we (p : BitVec 1) : (s.setNextPlane p).we = s.we := rfl
@[simp] theorem State.setNextPlane_he (p : BitVec 1) : (s.setNextPlane p).he = s.he := rfl
@[simp] theorem State.setNextPlane_bpr (p : BitVec 1) : (s.setNextPlane p).bpr = s.bpr := rfl
@[simp] theorem State.setNextPlane_np (p : BitVec 1) : (s.setNextPlane p).np = s.np := rfl
@[simp] theorem State.setNextPlane_psize (p : BitVec 1) : (s.setNextPlane p).psize = s.psize := rfl
@[simp] theorem State.setNextPlane_n (p : BitVec 1) : (s.setNextPlane p).n = s.n := rfl
@[simp] theorem State.setPbBytes_w (a : Nat) (vs : Bytes) : (s.setPbBytes a vs).w = s.w := rfl
@[simp] theorem State.setPbBytes_h (a : Nat) (vs : Bytes) : (s.setPbBytes a vs).h = s.h := rfl
@[simp] theorem State.setPbBytes_b (a : Nat) (vs : Bytes) : (s.setPbBytes a vs).b = s.b := rfl
@[simp] theorem State.setPbBytes_we (a : Nat) (vs : Bytes) : (s.setPbBytes a vs).we = s.we := rfl
@[simp] theorem State.setPbBytes_he (a : Nat) (vs : Bytes) : (s.setPbBytes a vs).he = s.he := rfl
@[simp] theorem State.setPbBytes_bpr (a : Nat) (vs : Bytes) : (s.setPbBytes a vs).bpr = s.bpr := rfl
@[simp] theorem State.setPbBytes_np (a : Nat) (vs : Bytes) : (s.setPbBytes a vs).np = s.np := rfl
@[simp] theorem State.setPbBytes_psize (a : Nat) (vs : Bytes) : (s.setPbBytes a vs).psize = s.psize := rfl
@[simp] theorem State.setPbBytes_n (a : Nat) (vs : Bytes) : (s.setPbBytes a vs).n = s.n := rfl
@[simp] theorem State.zeroPb_w (a n : Nat) : (s.zeroPb a n).w = s.w := rfl
@[simp] theorem State.zeroPb_h (a n : Nat) : (s.zeroPb a n).h = s.h := rfl
@[simp] theorem State.zeroPb_b (a n : Nat) : (s.zeroPb a n).b = s.b := rfl
@[simp] theorem State.zeroPb_we (a n : Nat) : (s.zeroPb a n).we = s.we := rfl
@[simp] theorem State.zeroPb_he (a n : Nat) : (s.zeroPb a n).he = s.he := rfl
@[simp] theorem State.zeroPb_bpr (a n : Nat) : (s.zeroPb a n).bpr = s.bpr := rfl
@[simp] theorem State.zeroPb_np (a n : Nat) : (s.zeroPb a n).np = s.np := rfl
@[simp] theorem State.zeroPb_psize (a n : Nat) : (s.zeroPb a n).psize = s.psize := rfl
@[simp] theorem State.zeroPb_n (a n : Nat) : (s.zeroPb a n).n = s.n := rfl
@[simp] theorem State.setG5Result_w (n k : Nat) : (s.setG5Result n k).w = s.w := rfl
@[simp] theorem State.setG5Result_h (n k : Nat) : (s.setG5Result n k).h = s.h := rfl
@[simp] theorem State.setG5Result_b (n k : Nat) : (s.setG5Result n k).b = s.b := rfl
@[simp] theorem State.setG5Result_we (n k : Nat) : (s.setG5Result n k).we = s.we := rfl
@[simp] theorem State.setG5Result_he (n k : Nat) : (s.setG5Result n k).he = s.he := rfl
@[simp] theorem State.setG5Result_bpr (n k : Nat) : (s.setG5Result n k).bpr = s.bpr := rfl
@[simp] theorem State.setG5Result_np (n k : Nat) : (s.setG5Result n k).np = s.np := rfl
@[simp] theorem State.setG5Result_psize (n k : Nat) : (s.setG5Result n k).psize = s.psize := rfl
@[simp] theorem State.setG5Result_n (n k : Nat) : (s.setG5Result n k).n = s.n := rfl
@[simp] theorem State.setInputs_w (l : List HostInput) : (s.setInputs l).w = s.w := rfl
@[simp] theorem State.setInputs_h (l : List HostInput) : (s.setInputs l).h = s.h := rfl
@[simp] theorem State.setInputs_b (l : List HostInput) : (s.setInputs l).b = s.b := rfl
@[simp] theorem State.setInputs_we (l : List HostInput) : (s.setInputs l).we = s.we := rfl
@[simp] theorem State.setInputs_he (l : List HostInput) : (s.setInputs l).he = s.he := rfl
@[simp] theorem State.setInputs_bpr (l : List HostInput) : (s.setInputs l).bpr = s.bpr := rfl
@[simp] theorem State.setInputs_np (l : List HostInput) : (s.setInputs l).np = s.np := rfl
@[simp] theorem State.setInputs_psize (l : List HostInput) : (s.setInputs l).psize = s.psize := rfl
@[simp] theorem State.setInputs_n (l : List HostInput) : (s.setInputs l).n = s.n := rfl
@[simp] theorem State.raiseIf_w (c : Bool) (e : Event) : (s.raiseIf c e).w = s.w := by cases c <;> rfl
@[simp] theorem State.raiseIf_h (c : Bool) (e : Event) : (s.raiseIf c e).h = s.h := by cases c <;> rfl
@[simp] theorem State.raiseIf_b (c : Bool) (e : Event) : (s.raiseIf c e).b = s.b := by cases c <;> rfl
@[simp] theorem State.raiseIf_we (c : Bool) (e : Event) : (s.raiseIf c e).we = s.we := by cases c <;> rfl
@[simp] theorem State.raiseIf_he (c : Bool) (e : Event) : (s.raiseIf c e).he = s.he := by cases c <;> rfl
@[simp] theorem State.raiseIf_bpr (c : Bool) (e : Event) : (s.raiseIf c e).bpr = s.bpr := by cases c <;> rfl
@[simp] theorem State.raiseIf_np (c : Bool) (e : Event) : (s.raiseIf c e).np = s.np := by cases c <;> rfl
@[simp] theorem State.raiseIf_psize (c : Bool) (e : Event) : (s.raiseIf c e).psize = s.psize := by cases c <;> rfl
@[simp] theorem State.raiseIf_n (c : Bool) (e : Event) : (s.raiseIf c e).n = s.n := by cases c <;> rfl

end Sys2Proof.Machine
end

