-- ==== Sys2Proof/Laws/Ops.lean ====
section
/-!
SUPPORT. One lemma per shared operation that says everything it can do, and what the updates keep of the memories' invariant.
-/

namespace Sys2Proof.Machine

/-! ## Outcomes -/

@[simp] theorem andThen_of_next (s : State) (f : State → Result) : andThen (.next s) f = f s := rfl
@[simp] theorem andThen_of_fault (e : Fault) (f : State → Result) : andThen (.fault e) f = .fault e := rfl
@[simp] theorem andThen_of_refused (e : Refusal) (f : State → Result) : andThen (.refused e) f = .refused e := rfl

theorem next_eq_next {s t : State} : (Host.Outcome.next s : Result) = .next t ↔ t = s :=
  ⟨fun h => (Host.Outcome.next.inj h).symm, fun h => h ▸ rfl⟩

/-- A next state of a sequence comes from a next state of its first part. -/
theorem andThen_eq_next {r : Result} {f : State → Result} {t : State} :
    andThen r f = .next t ↔ ∃ s, r = .next s ∧ f s = .next t := by
  cases r <;> simp

/-- A fault of a sequence is a fault of one of its parts. -/
theorem andThen_eq_fault {r : Result} {f : State → Result} {e : Fault} :
    andThen r f = .fault e ↔ r = .fault e ∨ ∃ s, r = .next s ∧ f s = .fault e := by
  cases r <;> simp

/-- A refusal of a sequence is a refusal of one of its parts. -/
theorem andThen_eq_refused {r : Result} {f : State → Result} {e : Refusal} :
    andThen r f = .refused e ↔ r = .refused e ∨ ∃ s, r = .next s ∧ f s = .refused e := by
  cases r <;> simp

theorem enginePbWrite_eq_next {a : Nat} {vs : Bytes} {s t : State} :
    s.enginePbWrite a vs = .next t ↔ a + vs.length ≤ s.caps.pbCap ∧ t = s.setPbBytes a vs := by
  unfold State.enginePbWrite
  split
  · simpa [*] using eq_comm
  · simp [*]

theorem enginePbWrite_of_le {a : Nat} {vs : Bytes} {s : State} (h : a + vs.length ≤ s.caps.pbCap) :
    s.enginePbWrite a vs = .next (s.setPbBytes a vs) := if_pos h

theorem engineImgWrite_eq_next {a : Nat} {vs : List Word} {s t : State} :
    s.engineImgWrite a vs = .next t ↔ a + vs.length ≤ s.caps.imgCap ∧ t = s.setImgWords a vs := by
  unfold State.engineImgWrite
  split
  · simpa [*] using eq_comm
  · simp [*]

theorem engineImgWrite_of_le {a : Nat} {vs : List Word} {s : State} (h : a + vs.length ≤ s.caps.imgCap) :
    s.engineImgWrite a vs = .next (s.setImgWords a vs) := if_pos h

/-! ## The shared operations of the units: where each answers a next state, and which -/

theorem onG5_eq_next {f : G5Run → G5Run} {s t : State} :
    s.onG5 f = .next t ↔ ∃ job g, s.engine = .g5 job g ∧ g.running = true ∧ t = s.setEngine (.g5 job (f g)) := by
  unfold State.onG5
  split
  · rename_i job g h
    cases hr : g.running <;> simp [h, hr]
    exact eq_comm
  · rename_i h
    simp only [reduceCtorEq, false_iff]
    rintro ⟨job, g, hg, -, -⟩
    exact h job g hg

theorem onPayload_eq_next {f : Nat → Bytes → State} {s t : State} :
    s.onPayload f = .next t ↔ ∃ fpos p, s.engine = .resolving fpos p ∧ t = f fpos p := by
  unfold State.onPayload
  split
  · rename_i fpos p h
    rw [next_eq_next, h]
    simp
  · rename_i h
    simp only [reduceCtorEq, false_iff]
    rintro ⟨fpos, p, hp, -⟩
    exact h fpos p hp

theorem onInflate_eq_next {ctx : Format} {f : Inflate → Except InflateFail Inflate} {s t : State} :
    s.onInflate ctx f = .next t ↔ ∃ fpos z, s.engine = .inflating fpos z ∧ z.context = some ctx ∧
      ((∃ z', f z = .ok z' ∧ t = s.setEngine (.inflating fpos z')) ∨
       (∃ e, f z = .error e ∧ t = s.inflateFailed fpos)) := by
  unfold State.onInflate
  split
  · rename_i fpos z h
    by_cases hc : z.context = some ctx
    · cases hf : f z <;> simpa [h, hc, hf] using eq_comm
    · simp [h, hc]
  · rename_i h
    simp only [reduceCtorEq, false_iff]
    rintro ⟨fpos, z, hz, -⟩
    exact h fpos z hz

theorem onPixel_eq_next {f : Nat → Nat → Memory 24 → Result} {s t : State} :
    s.onPixel f = .next t ↔ ∃ x y work, s.engine = .drawing x y work ∧ x < s.we ∧ y < s.he ∧ f x y work = .next t := by
  unfold State.onPixel
  split
  · rename_i x y work h
    by_cases hc : x < s.we ∧ y < s.he <;> simp [h, hc, ← and_assoc]
  · rename_i h
    simp only [reduceCtorEq, false_iff]
    rintro ⟨x, y, work, hw, -⟩
    exact h x y work hw

theorem runOperation_eq_next {op : BitVec 3} {body : State → State} {s t : State} :
    s.runOperation op body = .next t ↔ s.engine = .launched ∧ s.regs.op = op ∧
      t = (if s.configOk op then body s else s.cfgError) := by
  unfold State.runOperation
  by_cases h : s.engine = .launched ∧ s.regs.op = op
  · cases hc : s.configOk op <;> simpa [h] using eq_comm
  · rw [if_neg h]
    simp only [reduceCtorEq, false_iff]
    rintro ⟨h1, h2, -⟩
    exact h ⟨h1, h2⟩

theorem rotate_eq_next {src : Nat → Nat → Nat × Nat} {s t : State} :
    s.rotate src = .next t ↔ ∃ work, s.engine = .rotating work ∧ (s.imageWords src work).length ≤ s.caps.imgCap ∧
      t = (s.setImgWords 0 (s.imageWords src work)).complete := by
  unfold State.rotate
  split
  · rename_i work h
    rw [andThen_eq_next, h]
    simp only [engineImgWrite_eq_next, next_eq_next, Nat.zero_add]
    constructor
    · rintro ⟨u, ⟨hu, rfl⟩, rfl⟩
      exact ⟨work, rfl, hu, rfl⟩
    · rintro ⟨_, ⟨⟩, hu, rfl⟩
      exact ⟨_, ⟨hu, rfl⟩, rfl⟩
  · rename_i h
    simp only [reduceCtorEq, false_iff]
    rintro ⟨work, hw, -⟩
    exact h work hw

@[simp] theorem imageWords_length (src : Nat → Nat → Nat × Nat) (work : Memory 24) (s : State) :
    (s.imageWords src work).length = s.w * s.h := by simp [State.imageWords]

/-! ## The memories' invariant -/

/-- The memories' invariant speaks of the memories, the colour table and the capacities only. -/
theorem State.MemoriesOk.congr {s t : State} (h : s.MemoriesOk) (hc : t.caps = s.caps) (hct : t.ct = s.ct)
    (hi : t.inMem = s.inMem) (hp : t.pbMem = s.pbMem) (hg : t.imgMem = s.imgMem) : t.MemoriesOk := by
  constructor
  · rw [hct]; exact h.ctWf
  · rw [hct]; exact h.ctBelow
  · rw [hi]; exact h.inWf
  · rw [hi, hc]; exact h.inBelow
  · rw [hp]; exact h.pbWf
  · rw [hp, hc]; exact h.pbBelow
  · rw [hg]; exact h.imgWf
  · rw [hg, hc]; exact h.imgBelow

theorem State.MemoriesOk.setPbBytes {s : State} (h : s.MemoriesOk) {a : Nat} {vs : Bytes}
    (ha : a + vs.length ≤ s.caps.pbCap) : (s.setPbBytes a vs).MemoriesOk :=
  ⟨h.ctWf, h.ctBelow, h.inWf, h.inBelow, Memory.wf_write h.pbWf _ _, Memory.below_write h.pbBelow ha, h.imgWf,
    h.imgBelow⟩

theorem State.MemoriesOk.zeroPb {s : State} (h : s.MemoriesOk) (a n : Nat) : (s.zeroPb a n).MemoriesOk :=
  ⟨h.ctWf, h.ctBelow, h.inWf, h.inBelow, Memory.wf_clear h.pbWf _ _, Memory.below_clear h.pbBelow _ _, h.imgWf,
    h.imgBelow⟩

theorem State.MemoriesOk.setImgWords {s : State} (h : s.MemoriesOk) {a : Nat} {vs : List Word}
    (ha : a + vs.length ≤ s.caps.imgCap) : (s.setImgWords a vs).MemoriesOk :=
  ⟨h.ctWf, h.ctBelow, h.inWf, h.inBelow, h.pbWf, h.pbBelow, Memory.wf_write h.imgWf _ _,
    Memory.below_write h.imgBelow ha⟩

theorem State.MemoriesOk.setInByte {s : State} (h : s.MemoriesOk) {a : Nat} {v : Byte} (ha : a < s.caps.inCap) :
    (s.setInByte a v).MemoriesOk :=
  ⟨h.ctWf, h.ctBelow, Memory.wf_write h.inWf _ _, Memory.below_write h.inBelow (by simpa using ha), h.pbWf, h.pbBelow,
    h.imgWf, h.imgBelow⟩

theorem State.MemoriesOk.setCt {s : State} (h : s.MemoriesOk) {i : Nat} (v : Word) (hi : i < Config.ctMax) :
    (s.regWrite (.ct i) v).MemoriesOk :=
  ⟨Memory.wf_write h.ctWf _ _, Memory.below_write h.ctBelow (by simpa using hi), h.inWf, h.inBelow, h.pbWf, h.pbBelow,
    h.imgWf, h.imgBelow⟩

theorem State.MemoriesOk.resetInput (s : State) (i p : List Host.Cell) (g : Memory 32) : (s.resetInput i p g).MemoriesOk :=
  ⟨Memory.wf_nil, by simp [Memory.below], Memory.wf_ofCells Memory.wf_nil, Memory.below_ofCells (by simp [Memory.below]),
    Memory.wf_ofCells Memory.wf_nil, Memory.below_ofCells (by simp [Memory.below]), Memory.wf_ofCells Memory.wf_nil,
    Memory.below_ofCells (by simp [Memory.below])⟩

/-- A colour-table offset names one of the 256 entries (10_state.md R22). -/
theorem regAt_ct {off i : Nat} (h : regAt off = .ct i) : Config.ctBase ≤ off ∧ i = (off - Config.ctBase) / 4 := by
  have skip : ∀ {p : Prop} [Decidable p] {a b c : RegName}, (if p then a else b) = c → a ≠ c → b = c :=
    fun h ha => by split at h <;> [exact absurd h ha; exact h]
  unfold regAt at h
  replace h := skip (skip (skip (skip (skip (skip (skip h (by simp)) (by simp)) (by simp)) (by simp)) (by simp)) (by simp))
    (by simp)
  replace h := skip (skip (skip (skip (skip (skip (skip (skip h (by simp)) (by simp)) (by simp)) (by simp)) (by simp))
    (by simp)) (by simp)) (by simp)
  split at h
  · exact ⟨by assumption, by injection h with h; exact h.symm⟩
  · exact absurd h (by simp)

theorem regAt_ct_lt {off i : Nat} (h : regAt off = .ct i) (hoff : off < Config.regSpace) : i < Config.ctMax := by
  obtain ⟨h1, rfl⟩ := regAt_ct h
  simp only [Config.ctBase, Config.regSpace, Config.ctMax] at *
  omega

/-! ## Events and counters -/

/-- A counter never goes down, and goes up by at most 1 (10_state.md R30). -/
theorem satInc_toNat (c : BitVec 16) : (satInc c).toNat = min (c.toNat + 1) 0xFFFF := by
  unfold satInc
  split
  · simp_all
  · rename_i h
    have hc : c.toNat ≠ 0xFFFF := fun e => h (BitVec.eq_of_toNat_eq (by simpa using e))
    have := c.isLt
    have h1 : (1 : BitVec 16).toNat = 1 := rfl
    rw [BitVec.toNat_add, h1]
    omega

/-- An event's bit is set, every other bit of STATUS is kept (00_scope.md R11). -/
theorem raise_status_bit (e : Event) (s : State) (i : Nat) (hi : i < 32) :
    (s.raise e).status.getLsbD i = (s.status.getLsbD i || decide (i = e.code)) := by
  have he : e.code < 32 := by cases e <;> decide
  simp only [State.raise_status, BitVec.getLsbD_or, BitVec.getLsbD_shiftLeft, hi, decide_true, Bool.true_and]
  congr 1
  rcases Nat.lt_trichotomy i e.code with h | h | h
  · simp [h]; omega
  · simp [h]
  · have h0 : i - e.code ≠ 0 := by omega
    simp [h0]; omega

end Sys2Proof.Machine
end

