-- ==== Sys2Proof/Laws/Invariant.lean ====
section
/-!
SUPPORT. What the parts of the invariant depend on, and how it is kept by a step of the engine that stays BUSY, by a
completion and by a change of the model's own fields.
-/

namespace Sys2Proof.Machine

/-- What no engine step changes: registers the host writes, capacities, colour table, IN (10_state.md R49). -/
structure State.SameInputs (s t : State) : Prop where
  regs  : t.regs = s.regs
  caps  : t.caps = s.caps
  ct    : t.ct = s.ct
  inMem : t.inMem = s.inMem

theorem State.SameInputs.refl (s : State) : s.SameInputs s := ⟨rfl, rfl, rfl, rfl⟩

theorem State.SameInputs.trans {s t u : State} (h : s.SameInputs t) (k : t.SameInputs u) : s.SameInputs u :=
  ⟨k.regs.trans h.regs, k.caps.trans h.caps, k.ct.trans h.ct, k.inMem.trans h.inMem⟩

theorem State.SameInputs.configOk {s t : State} (h : s.SameInputs t) (op : BitVec 3) : t.configOk op = s.configOk op :=
  State.configOk_congr h.regs h.caps h.ct op

theorem State.SameInputs.decoding {s t : State} (h : s.SameInputs t) : t.decoding ↔ s.decoding := by
  simp only [State.decoding, h.regs, h.configOk]

theorem State.SameInputs.rendering {s t : State} (h : s.SameInputs t) : t.rendering ↔ s.rendering := by
  simp only [State.rendering, h.regs, h.configOk]

theorem State.SameInputs.cursorOk {s t : State} (h : s.SameInputs t) (fpos : Nat) :
    t.cursorOk fpos ↔ s.cursorOk fpos := by
  simp only [State.cursorOk, h.decoding, h.regs]

theorem State.SameInputs.gridOk {s t : State} (h : s.SameInputs t) (work : Memory 24) : t.gridOk work ↔ s.gridOk work := by
  obtain ⟨_, _, _, hwe, hhe, _⟩ := State.geometry_congr h.regs
  simp only [State.gridOk, hwe, hhe]

theorem State.SameInputs.g5Ok {s t : State} (h : s.SameInputs t) (job : G5Job) (g : G5Run) :
    t.g5Ok job g ↔ s.g5Ok job g := by
  obtain ⟨_, _, _, _, _, hbpr, _⟩ := State.geometry_congr h.regs
  cases job <;>
    simp only [State.g5Ok, h.cursorOk, hbpr, h.regs, h.configOk, State.inBytes_congr h.inMem]

/-- A state that is BUSY with the same inputs keeps the invariant where STATUS, the memories and the unit do. -/
theorem State.Inv.busyStep {s t : State} (h : s.Inv) (hs : s.busy = true) (ht : t.busy = true) (hi : s.SameInputs t)
    (hm : t.MemoriesOk) (hr : t.status &&& statusReserved = 0)
    (h0 : t.status.getLsbD 0 = s.status.getLsbD 0) (h1 : t.status.getLsbD 1 = s.status.getLsbD 1)
    (hp : t.nextPlane = 0) (he : t.engineOk) : t.Inv where
  caps := hi.caps ▸ h.caps
  memories := hm
  reserved := hr
  busyFlag := by rw [h0, h.busyFlag, hs, ht]
  doneFlag := fun _ => by rw [h1]; exact h.doneFlag hs
  nextPlane := hp
  engine := he

theorem raise_reserved {s : State} (h : s.status &&& statusReserved = 0) {e : Event} (he : e ≠ .g5fb) :
    (s.raise e).status &&& statusReserved = 0 := by
  have : (1#32 <<< e.code) &&& statusReserved = 0 := by cases e <;> first | rfl | exact absurd rfl he
  rw [State.raise_status, BitVec.and_or_distrib_right, h, this]
  rfl

theorem raiseIf_reserved {s : State} (h : s.status &&& statusReserved = 0) {e : Event} (he : e ≠ .g5fb) (c : Bool) :
    (s.raiseIf c e).status &&& statusReserved = 0 := by
  cases c
  · exact h
  · exact raise_reserved h he

/-- An event leaves BUSY and DONE alone (60_exceptions.md R371). -/
theorem raise_busyBit (e : Event) (s : State) : (s.raise e).status.getLsbD 0 = s.status.getLsbD 0 := by
  rw [raise_status_bit e s 0 (by decide)]
  cases e <;> simp [Event.code]

theorem raise_doneBit (e : Event) (s : State) : (s.raise e).status.getLsbD 1 = s.status.getLsbD 1 := by
  rw [raise_status_bit e s 1 (by decide)]
  cases e <;> simp [Event.code]

theorem raiseIf_busyBit (c : Bool) (e : Event) (s : State) :
    (s.raiseIf c e).status.getLsbD 0 = s.status.getLsbD 0 := by
  cases c
  · rfl
  · exact raise_busyBit e s

theorem raiseIf_doneBit (c : Bool) (e : Event) (s : State) :
    (s.raiseIf c e).status.getLsbD 1 = s.status.getLsbD 1 := by
  cases c
  · rfl
  · exact raise_doneBit e s

theorem complete_reserved {s : State} (h : s.status &&& statusReserved = 0) :
    s.complete.status &&& statusReserved = 0 := by
  have hd : doneBit &&& statusReserved = 0 := by decide
  rw [State.complete_status, BitVec.and_or_distrib_right, hd, BitVec.and_assoc, BitVec.and_comm (~~~busyBit),
    ← BitVec.and_assoc, h]
  simp

/-- Completion keeps the invariant (47_host_operations.md R350). -/
theorem State.Inv.completed {s t : State} (h : s.Inv) (hc : t.caps = s.caps) (hm : t.MemoriesOk)
    (hr : t.status &&& statusReserved = 0) (hp : t.nextPlane = 0) : t.complete.Inv where
  caps := hc ▸ h.caps
  memories := hm.congr rfl rfl rfl rfl rfl
  reserved := complete_reserved hr
  busyFlag := by simp [State.busy, busyBit, doneBit]
  doneFlag := by simp [State.busy]
  nextPlane := hp
  engine := by simp [State.engineOk]

end Sys2Proof.Machine
end

