-- ==== Sys2Proof/Laws/PerInstr.lean ====
section
/-!
SUPPORT. Statements made for every instruction, one lemma per constructor.
-/

namespace Sys2Proof.Laws.EncodedLength

/-- The bytes of a format that has a fixed length (30_encoding.md R101, R107, R111; symbol numbers are two bytes, registers
four). A payload has none. -/
def formatBytes : Format → Option Nat
  | .g5Cmd => some 1
  | .stream => some 4
  | .payload => none
  | .dflBlock => some 1
  | .symLit => some 2
  | .symDist => some 2
  | .symCl => some 2
  | .ctrlWrite => some 4
  | .ctrlLaunch => some 4
  | .fmtPixel => some 4
  | .fmtRotate => some 4

/-- An instruction's encoding is as long as its format, and never longer than a block header. -/
def Statement (i : Instr) : Prop :=
  (encode i).length ≤ 6 ∧ ∀ n, formatBytes (formatOf i) = some n → (encode i).length = n

/-- Both halves are settled by computing the length. -/
theorem of_length {i : Instr} {k : Nat} (hk : (encode i).length = k) (h6 : k ≤ 6)
    (hf : ∀ n, formatBytes (formatOf i) = some n → k = n) : Statement i :=
  ⟨hk ▸ h6, fun n h => hk.trans (hf n h)⟩

theorem lit (n : BitVec 7) : Statement (.lit n) :=
  of_length (k := 1) rfl (by decide) (by rintro n ⟨⟩; rfl)

theorem runB (ab : BitVec 2) (n : BitVec 4) : Statement (.runB ab n) :=
  of_length (k := 1) rfl (by decide) (by rintro n ⟨⟩; rfl)

theorem runW (ab : BitVec 2) (n : BitVec 4) : Statement (.runW ab n) :=
  of_length (k := 1) rfl (by decide) (by rintro n ⟨⟩; rfl)

theorem frame (len : Word) : Statement (.frame len) :=
  of_length (k := 4) rfl (by decide) (by rintro n ⟨⟩; rfl)

theorem payZlib7801 : Statement .payZlib7801 :=
  of_length (k := 2) rfl (by decide) (by rintro n ⟨⟩)

theorem payZlib789C : Statement .payZlib789C :=
  of_length (k := 2) rfl (by decide) (by rintro n ⟨⟩)

theorem payZlib78DA : Statement .payZlib78DA :=
  of_length (k := 2) rfl (by decide) (by rintro n ⟨⟩)

theorem payShort : Statement .payShort :=
  of_length (k := 0) rfl (by decide) (by rintro n ⟨⟩)

theorem payG5 (startRow rowCount : BitVec 16) (fmt : BitVec 7) (flags : BitVec 8) :
    Statement (.payG5 startRow rowCount fmt flags) :=
  of_length (k := 6) rfl (by decide) (by rintro n ⟨⟩)

theorem payRaw (startRow rowCount : BitVec 16) (fmt : BitVec 7) (flags : BitVec 8) :
    Statement (.payRaw startRow rowCount fmt flags) :=
  of_length (k := 6) rfl (by decide) (by rintro n ⟨⟩)

theorem dflStored (final : Bool) : Statement (.dflStored final) :=
  of_length (k := 1) rfl (by decide) (by rintro n ⟨⟩; rfl)

theorem dflFixed (final : Bool) : Statement (.dflFixed final) :=
  of_length (k := 1) rfl (by decide) (by rintro n ⟨⟩; rfl)

theorem dflDynamic (final : Bool) : Statement (.dflDynamic final) :=
  of_length (k := 1) rfl (by decide) (by rintro n ⟨⟩; rfl)

theorem dflBtype3 (final : Bool) : Statement (.dflBtype3 final) :=
  of_length (k := 1) rfl (by decide) (by rintro n ⟨⟩; rfl)

theorem dflLit (sym : BitVec 8) : Statement (.dflLit sym) :=
  of_length (k := 2) rfl (by decide) (by rintro n ⟨⟩; rfl)

theorem dflEob : Statement .dflEob :=
  of_length (k := 2) rfl (by decide) (by rintro n ⟨⟩; rfl)

theorem dflLen (sym : BitVec 9) : Statement (.dflLen sym) :=
  of_length (k := 2) rfl (by decide) (by rintro n ⟨⟩; rfl)

theorem dflLenRsv (sym : BitVec 9) : Statement (.dflLenRsv sym) :=
  of_length (k := 2) rfl (by decide) (by rintro n ⟨⟩; rfl)

theorem dflDist (sym : BitVec 5) : Statement (.dflDist sym) :=
  of_length (k := 2) rfl (by decide) (by rintro n ⟨⟩; rfl)

theorem dflDistRsv (sym : BitVec 5) : Statement (.dflDistRsv sym) :=
  of_length (k := 2) rfl (by decide) (by rintro n ⟨⟩; rfl)

theorem dflClLen (sym : BitVec 4) : Statement (.dflClLen sym) :=
  of_length (k := 2) rfl (by decide) (by rintro n ⟨⟩; rfl)

theorem dflClRep16 : Statement .dflClRep16 :=
  of_length (k := 2) rfl (by decide) (by rintro n ⟨⟩; rfl)

theorem dflClRep17 : Statement .dflClRep17 :=
  of_length (k := 2) rfl (by decide) (by rintro n ⟨⟩; rfl)

theorem dflClRep18 : Statement .dflClRep18 :=
  of_length (k := 2) rfl (by decide) (by rintro n ⟨⟩; rfl)

theorem ctrlSetop (op : BitVec 3) : Statement (.ctrlSetop op) :=
  of_length (k := 4) rfl (by decide) (by rintro n ⟨⟩; rfl)

theorem start (op : BitVec 3) : Statement (.start op) :=
  of_length (k := 4) rfl (by decide) (by rintro n ⟨⟩; rfl)

theorem nop : Statement .nop :=
  of_length (k := 4) rfl (by decide) (by rintro n ⟨⟩; rfl)

theorem decode : Statement .decode :=
  of_length (k := 4) rfl (by decide) (by rintro n ⟨⟩; rfl)

theorem render : Statement .render :=
  of_length (k := 4) rfl (by decide) (by rintro n ⟨⟩; rfl)

theorem decodeRender : Statement .decodeRender :=
  of_length (k := 4) rfl (by decide) (by rintro n ⟨⟩; rfl)

theorem g5 : Statement .g5 :=
  of_length (k := 4) rfl (by decide) (by rintro n ⟨⟩; rfl)

theorem opRsv5 : Statement .opRsv5 :=
  of_length (k := 4) rfl (by decide) (by rintro n ⟨⟩; rfl)

theorem opRsv6 : Statement .opRsv6 :=
  of_length (k := 4) rfl (by decide) (by rintro n ⟨⟩; rfl)

theorem opRsv7 : Statement .opRsv7 :=
  of_length (k := 4) rfl (by decide) (by rintro n ⟨⟩; rfl)

theorem planeRead (bpp : BitVec 4) : Statement (.planeRead bpp) :=
  of_length (k := 4) rfl (by decide) (by rintro n ⟨⟩; rfl)

theorem indexExtract (bpp : BitVec 4) : Statement (.indexExtract bpp) :=
  of_length (k := 4) rfl (by decide) (by rintro n ⟨⟩; rfl)

theorem rot0 (bpp : BitVec 4) : Statement (.rot0 bpp) :=
  of_length (k := 4) rfl (by decide) (by rintro n ⟨⟩; rfl)

theorem rot1 (bpp : BitVec 4) : Statement (.rot1 bpp) :=
  of_length (k := 4) rfl (by decide) (by rintro n ⟨⟩; rfl)

theorem rot2 (bpp : BitVec 4) : Statement (.rot2 bpp) :=
  of_length (k := 4) rfl (by decide) (by rintro n ⟨⟩; rfl)

theorem rot3 (bpp : BitVec 4) : Statement (.rot3 bpp) :=
  of_length (k := 4) rfl (by decide) (by rintro n ⟨⟩; rfl)

end Sys2Proof.Laws.EncodedLength
end

