-- ==== Sys2Proof/Tests/Slice0.lean ====
section
/-!
SUPPORT. Tests: ill-formed terms, words decoded, one step of every instruction on a small state, and for every statement with
hypotheses a state that meets them. Expected values are the spec's: its vectors (95_test_vectors.md, by their names G1, F6,
…), its examples, or a hand calculation from the rule named.
-/

namespace Sys2Proof.Machine.Tests

open Sys2Proof Sys2Proof.Machine

/-! ## Small states -/

/-- 16-byte memories and a 16-word image, the capacities of 95_test_vectors.md 2.8. -/
def small : State := { State.reset with caps := { inCap := 16, pbCap := 16, imgCap := 16 } }

/-- BUSY, with the engine at work on something, IN and PB holding the given bytes, the registers changed. -/
def busyAt (e : Engine) (inB pbB : Bytes) (f : Regs → Regs) : State :=
  { small with
    status := 1
    engine := e
    inMem := Memory.write 0 [] 0 inB
    pbMem := Memory.write 0 [] 0 pbB
    regs := f State.reset.regs }

/-- A running G5 decode. -/
def g5At (src : Bytes) (exp gpos : Nat) (out : Bytes) : State :=
  busyAt (.g5 .standalone { src := src, exp := exp, gpos := gpos, out := out }) [] [] (fun r => { r with op := 4 })

/-- The geometry 8 × 8 at 1 bit per pixel of 95_test_vectors.md 2.4, under DECODE. -/
def byEight (r : Regs) : Regs := { r with op := 1, width := 8, height := 8, bpp := 1 }

/-- A payload just framed. -/
def payloadAt (p : Bytes) : State := busyAt (.resolving 16 p) [] [] byEight

/-- An inflate in some mode, with its reader at the start of the given bytes. -/
def inflateAt (src out : Bytes) (mode : InflateMode) : State :=
  busyAt (.inflating 16
    { br := { src := src, q := 0, t := 0 }, out := out, adler := AdlerSums.begin.feed out, final := true, mode := mode })
    [] [] byEight

/-- Block bytes before the assembler. -/
def blockAt (d pbB : Bytes) (f : Regs → Regs) : State := busyAt (.dispatching 16 d) [] pbB f

/-- A pixel to be drawn. -/
def pixelAt (x y : Nat) (pbB : Bytes) (w h : BitVec 16) (bpp : BitVec 4) (ct : List (Nat × BitVec 26)) (n : BitVec 9) : State :=
  { busyAt (.drawing x y []) [] pbB (fun r => { r with op := 2, width := w, height := h, bpp := bpp, ctCount := n }) with ct := ct }

/-- A finished work grid. -/
def gridAt (w h : BitVec 16) (rot : BitVec 2) (work : Memory 24) : State :=
  busyAt (.rotating work) [] [] (fun r => { r with op := 2, width := w, height := h, bpp := 8, rot := rot })

/-- An operation launched. -/
def launchedAt (op : BitVec 3) (f : Regs → Regs) : State := busyAt .launched [] [0x5A, 0x5A] (fun r => { f r with op := op })

/-- In IDLE, with one host action to come. -/
def hostAt (a : HostAction) : State := { small with inputs := [{ wait := 0, action := a }] }

/-- What a next state shows; nothing of a stop. -/
def shows {α : Type} (f : State → α) (r : Result) : Option α :=
  match r with
  | .next t => some (f t)
  | .fault _ => none
  | .refused _ => none

/-- Why a result is a refusal. -/
def refusal (r : Result) : Option Refusal :=
  match r with
  | .next _ => none
  | .fault _ => none
  | .refused e => some e

/-- The emitted bytes and the cursor of the running G5 decode. -/
def g5Shown (s : State) : Option (Bytes × Nat) :=
  match s.engine with
  | .g5 _ g => some (g.out, g.gpos)
  | _ => none

/-- The running inflate. -/
def inflateShown (s : State) : Option Inflate :=
  match s.engine with
  | .inflating _ z => some z
  | _ => none

/-- The code lengths read so far. -/
def lengthsShown (s : State) : Option (List Nat) :=
  match s.engine with
  | .inflating _ z =>
    match z.mode with
    | .lengths _ _ _ lens => some lens
    | _ => none
  | _ => none

/-- The pixel last drawn at a place of the work grid. -/
def workShown (k : Nat) (s : State) : Option Rgb :=
  match s.engine with
  | .drawing _ _ work => some (Memory.read Config.white work k)
  | _ => none

/-- The image words of the first `n` places. -/
def image (n : Nat) (s : State) : List Word := (List.range n).map s.imgWord

/-! ## Ill-formed terms are refused -/

theorem test_wf_g5_start_row : (Instr.payG5 0x0178 0 0 0).wf = false := by decide
theorem test_wf_raw_start_rows :
    (Instr.payRaw 0x9C78 0 0 0).wf = false ∧ (Instr.payRaw 0xDA78 0 0 0).wf = false := by decide
theorem test_wf_len_symbol : (Instr.dflLen 256).wf = false ∧ (Instr.dflLen 286).wf = false := by decide
theorem test_wf_len_reserved : (Instr.dflLenRsv 285).wf = false ∧ (Instr.dflLenRsv 288).wf = false := by decide
theorem test_wf_dist_symbol : (Instr.dflDist 30).wf = false ∧ (Instr.dflDistRsv 29).wf = false := by decide
theorem test_wf_plane_bpp : (Instr.planeRead 0).wf = false ∧ (Instr.planeRead 3).wf = false := by decide
theorem test_wf_index_bpp : (Instr.indexExtract 2).wf = false ∧ (Instr.indexExtract 9).wf = false := by decide

/-! ## Every constructor from a word of its encoding -/

theorem test_decode_g5_commands :
    decode .g5Cmd [0x00] = .ok (.lit 0) ∧ decode .g5Cmd [0x7F] = .ok (.lit 127) ∧
    decode .g5Cmd [0x83] = .ok (.runB 0 3) ∧ decode .g5Cmd [0xBF] = .ok (.runB 3 15) ∧
    decode .g5Cmd [0xC0] = .ok (.runW 0 0) ∧ decode .g5Cmd [0xDF] = .ok (.runW 1 15) := by decide

theorem test_decode_frame :
    decode .stream [0x0E, 0x00, 0x00, 0x00] = .ok (.frame 14) ∧
    decode .stream [0x04, 0x03, 0x02, 0x81] = .ok (.frame 0x81020304) := by decide

theorem test_decode_zlib_magic :
    decode .payload [0x78, 0x01] = .ok .payZlib7801 ∧ decode .payload [0x78, 0x9C] = .ok .payZlib789C ∧
    decode .payload [0x78, 0xDA] = .ok .payZlib78DA := by decide

theorem test_decode_short : decode .payload [0x78] = .ok .payShort ∧ decode .payload [] = .ok .payShort := by decide

theorem test_decode_headers :
    decode .payload [0x02, 0x01, 0x04, 0x03, 0x85, 0xFE] = .ok (.payG5 0x0102 0x0304 0x42 0xFE) ∧
    decode .payload [0x78, 0x5E, 0x04, 0x03, 0x84, 0xFE] = .ok (.payRaw 0x5E78 0x0304 0x42 0xFE) := by decide

theorem test_decode_block_headers :
    decode .dflBlock [0x01] = .ok (.dflStored true) ∧ decode .dflBlock [0x62] = .ok (.dflFixed false) ∧
    decode .dflBlock [0x05] = .ok (.dflDynamic true) ∧ decode .dflBlock [0x07] = .ok (.dflBtype3 true) := by decide

theorem test_decode_literal_symbols :
    decode .symLit [0xFF, 0x00] = .ok (.dflLit 255) ∧ decode .symLit [0x00, 0x01] = .ok .dflEob ∧
    decode .symLit [0x1D, 0x01] = .ok (.dflLen 285) ∧ decode .symLit [0x1E, 0x01] = .ok (.dflLenRsv 286) ∧
    decode .symLit [0x20, 0x01] = .error .noSuchSymbol := by decide

theorem test_decode_distance_symbols :
    decode .symDist [29, 0] = .ok (.dflDist 29) ∧ decode .symDist [30, 0] = .ok (.dflDistRsv 30) ∧
    decode .symDist [32, 0] = .error .noSuchSymbol := by decide

theorem test_decode_code_length_symbols :
    decode .symCl [15, 0] = .ok (.dflClLen 15) ∧ decode .symCl [16, 0] = .ok .dflClRep16 ∧
    decode .symCl [17, 0] = .ok .dflClRep17 ∧ decode .symCl [18, 0] = .ok .dflClRep18 ∧
    decode .symCl [19, 0] = .error .noSuchSymbol := by decide

theorem test_decode_ctrl :
    decode .ctrlWrite [0x03, 0x00, 0x00, 0x00] = .ok (.ctrlSetop 3) ∧
    decode .ctrlWrite [0xFB, 0xFF, 0x00, 0x00] = .ok (.start 3) := by decide

theorem test_decode_operations :
    decode .ctrlLaunch [0, 1, 0, 0] = .ok .nop ∧ decode .ctrlLaunch [1, 1, 0, 0] = .ok .decode ∧
    decode .ctrlLaunch [2, 1, 0, 0] = .ok .render ∧ decode .ctrlLaunch [3, 1, 0, 0] = .ok .decodeRender ∧
    decode .ctrlLaunch [4, 1, 0, 0] = .ok .g5 ∧ decode .ctrlLaunch [5, 1, 0, 0] = .ok .opRsv5 ∧
    decode .ctrlLaunch [6, 1, 0, 0] = .ok .opRsv6 ∧ decode .ctrlLaunch [7, 1, 0, 0] = .ok .opRsv7 ∧
    decode .ctrlLaunch [7, 0, 0, 0] = .error .notLaunched := by decide

theorem test_decode_pixels :
    decode .fmtPixel [0x02, 0x03, 0, 0] = .ok (.planeRead 2) ∧ decode .fmtPixel [0x08, 0, 0, 0] = .ok (.indexExtract 8) ∧
    decode .fmtPixel [0x09, 0, 0, 0] = .error .reservedBpp ∧ decode .fmtPixel [0, 0, 0, 0] = .error .reservedBpp := by
  decide

theorem test_decode_rotations :
    decode .fmtRotate [0x01, 0x00, 0, 0] = .ok (.rot0 1) ∧ decode .fmtRotate [0x01, 0x01, 0, 0] = .ok (.rot1 1) ∧
    decode .fmtRotate [0x08, 0x02, 0, 0] = .ok (.rot2 8) ∧ decode .fmtRotate [0x08, 0x03, 0, 0] = .ok (.rot3 8) := by
  decide

/-! ## One step of every instruction -/

/-- G1. -/
theorem test_lit_full :
    shows g5Shown (step (g5At [0x02, 0xAA, 0xBB, 0xCC] 3 0 [])) = some (some ([0xAA, 0xBB, 0xCC], 4)) := by decide
/-- G7: 2 of 4 bytes are there, the cursor moves by 5. -/
theorem test_lit_declared_longer :
    shows g5Shown (step (g5At [0x03, 0x01, 0x02] 8 0 [])) = some (some ([0x01, 0x02], 5)) := by decide
/-- G2. -/
theorem test_run_black : shows g5Shown (step (g5At [0x83] 8 0 [])) = some (some ([0, 0, 0, 0], 1)) := by decide
/-- The second command of G3, cut to 2 bytes (here after one byte of three). -/
theorem test_run_white_cut :
    shows g5Shown (step (g5At [0xC0, 0xC3] 3 1 [0xFF])) = some (some ([0xFF, 0xFF, 0xFF], 2)) := by decide

/-- F6: L = 20 is cut to the 8 bytes left, TRUNC. -/
theorem test_frame_truncated :
    shows (fun t => (t.engine, t.status, t.cnt.blocks))
      (step (busyAt (.framing 0) [0x14, 0, 0, 0, 0, 0, 2, 0, 0, 0, 0x11, 0x22] [] (fun r => { byEight r with inLen := 12 }))) =
    some (.resolving 12 [0, 0, 2, 0, 0, 0, 0x11, 0x22], 0x9, 1) := by decide
/-- F8: a zero-length frame. -/
theorem test_frame_empty :
    shows (fun t => (t.engine, t.status))
      (step (busyAt (.framing 0) [0, 0, 0, 0] [] (fun r => { byEight r with inLen := 4 }))) =
    some (.resolving 4 [], 0x1) := by decide

/-- 43_inflate.md R191: the inflate starts behind the two header bytes. -/
theorem test_zlib_begins :
    (shows inflateShown (step (payloadAt [0x78, 0x01, 0x07]))).map (fun z => z.map (fun z => (z.br.q, z.br.t, z.out))) =
      some (some (2, 0, [])) ∧
    (shows inflateShown (step (payloadAt [0x78, 0x9C, 0x07]))).map (fun z => z.map Inflate.mode) = some (some .header) ∧
    (shows inflateShown (step (payloadAt [0x78, 0xDA, 0x07]))).map (fun z => z.map Inflate.adler) =
      some (some { s1 := 1, s2 := 0 }) := by decide
/-- V6. -/
theorem test_short : shows (fun t => (t.status, t.cnt.skipped, t.engine)) (step (payloadAt [0, 0, 1, 0, 0])) =
    some (0x21, 1, .framing 16) := by decide
/-- V9: exp = 2 · 1. -/
theorem test_pay_g5 : shows State.engine (step (payloadAt [0, 0, 2, 0, 1, 0, 0x81])) =
    some (.g5 (.block 16 [0, 0, 2, 0, 1, 0]) { src := [0x81], exp := 2, gpos := 0, out := [] }) := by decide
/-- V4. -/
theorem test_pay_raw : shows (fun t => (t.engine, t.cnt.raw)) (step (payloadAt [0x78, 0x5E, 0, 0, 0, 0])) =
    some (.dispatching 16 [0x78, 0x5E, 0, 0, 0, 0], 1) := by decide

/-- Z10: the header bits end inside the byte, the reader aligns. -/
theorem test_stored_empty :
    (shows inflateShown (step (inflateAt [0x01, 0, 0, 0xFF, 0xFF, 0, 0, 0, 1] [] .header))).map
      (fun z => z.map (fun z => (z.br.q, z.mode, z.out))) = some (some (5, .trailer, [])) := by decide
/-- Z9: NLEN is not the complement. -/
theorem test_stored_bad_nlen :
    shows (fun t => (t.status, t.cnt.zfail)) (step (inflateAt [0x01, 1, 0, 0xFF, 0xFF, 0x41] [] .header)) =
      some (0x101, 1) := by decide
/-- Z2, first step: BFINAL 1, BTYPE 01. -/
theorem test_fixed_header :
    (shows inflateShown (step (inflateAt [0x63] [] .header))).map
      (fun z => z.map (fun z => (z.br.t, z.final, z.context))) = some (some (3, true, some .symLit)) := by decide
/-- 43_inflate.md R200–R202 by hand: HLIT 0, HDIST 0, HCLEN 0, lengths 0, 0, 1, 1 for the symbols 16, 17, 18, 0. -/
theorem test_dynamic_header :
    shows State.engine (step (inflateAt [0x04, 0x00, 0x80, 0x04] [] .header)) =
      some (.inflating 16 (Inflate.setMode
        (.lengths 257 1 [{ len := 1, code := 0, sym := 0 }, { len := 1, code := 1, sym := 18 }] [])
        { br := { src := [0x04, 0x00, 0x80, 0x04], q := 3, t := 5 }, out := [], adler := AdlerSums.begin, final := false,
          mode := .header })) := by decide
/-- 43_inflate.md R200: HLIT 31 announces 288 codes. -/
theorem test_dynamic_too_many :
    shows State.status (step (inflateAt [0xFD, 0x00, 0x00] [] .header)) = some 0x101 := by decide
/-- Z8. -/
theorem test_btype3 : shows (fun t => (t.status, t.cnt.zfail)) (step (inflateAt [0x07] [] .header)) = some (0x101, 1) := by
  decide
/-- The literal `A` of Z14. -/
theorem test_dfl_lit :
    (shows inflateShown (exec (.dflLit 0x41) (inflateAt [] [0x40] (.body [] [])))).map (fun z => z.map Inflate.out) =
      some (some [0x40, 0x41]) := by decide
/-- 43_inflate.md R208: behind the final block comes the trailer. -/
theorem test_dfl_eob :
    (shows inflateShown (exec .dflEob (inflateAt [] [] (.body [] [])))).map (fun z => z.map Inflate.mode) =
      some (some .trailer) := by decide
/-- 43_inflate.md R209: symbol 284 with extra bits 31 is length 258. -/
theorem test_dfl_len_284 :
    (shows inflateShown (exec (.dflLen 284) (inflateAt [0x1F] [] (.body [] [])))).map
      (fun z => z.map (fun z => (z.mode, z.br.t))) = some (some (.distance [] [] 258, 5)) := by decide
/-- 43_inflate.md R209: symbol 257 is length 3, symbol 265 with its one extra bit 1 is length 12. -/
theorem test_dfl_len_small :
    (shows inflateShown (exec (.dflLen 257) (inflateAt [0x01] [] (.body [] [])))).map (fun z => z.map Inflate.mode) =
      some (some (.distance [] [] 3)) ∧
    (shows inflateShown (exec (.dflLen 265) (inflateAt [0x01] [] (.body [] [])))).map (fun z => z.map Inflate.mode) =
      some (some (.distance [] [] 12)) := by decide
/-- Z15. -/
theorem test_dfl_len_reserved :
    shows State.status (exec (.dflLenRsv 286) (inflateAt [] [] (.body [] []))) = some 0x101 := by decide
/-- Z14: an overlapping copy. -/
theorem test_dfl_dist_overlap :
    (shows inflateShown (exec (.dflDist 0) (inflateAt [] [0x41] (.distance [] [] 3)))).map
      (fun z => z.map (fun z => (z.out, z.adler.value))) = some (some ([0x41, 0x41, 0x41, 0x41], 0x028E0105)) := by decide
/-- Z13: distance 1 into an empty output. -/
theorem test_dfl_dist_far :
    shows State.status (exec (.dflDist 0) (inflateAt [] [] (.distance [] [] 3))) = some 0x101 := by decide
/-- Z16. -/
theorem test_dfl_dist_reserved :
    shows State.status (exec (.dflDistRsv 30) (inflateAt [] [0x41] (.distance [] [] 4))) = some 0x101 := by decide
/-- 43_inflate.md R203. -/
theorem test_cl_len :
    shows lengthsShown (exec (.dflClLen 7) (inflateAt [] [] (.lengths 257 1 [] [3]))) = some (some [3, 7]) ∧
    shows State.status (exec (.dflClLen 7) (inflateAt [] [] (.lengths 1 1 [] [0, 0]))) = some 0x101 := by
  decide
/-- 43_inflate.md R203: 3 + 3 copies of the last length; none without a last one. -/
theorem test_cl_rep16 :
    shows lengthsShown (exec .dflClRep16 (inflateAt [0x03] [] (.lengths 257 1 [] [2, 5]))) =
      some (some [2, 5, 5, 5, 5, 5, 5, 5]) ∧
    shows State.status (exec .dflClRep16 (inflateAt [0x03] [] (.lengths 257 1 [] []))) = some 0x101 := by decide
/-- 43_inflate.md R203: 3 + 4 zeros. -/
theorem test_cl_rep17 :
    shows lengthsShown (exec .dflClRep17 (inflateAt [0x04] [] (.lengths 257 1 [] []))) =
      some (some [0, 0, 0, 0, 0, 0, 0]) := by decide
/-- 43_inflate.md R203: 11 + 1 zeros. -/
theorem test_cl_rep18 :
    shows lengthsShown (exec .dflClRep18 (inflateAt [0x01] [] (.lengths 257 1 [] [9]))) =
      some (some [9, 0, 0, 0, 0, 0, 0, 0, 0, 0, 0, 0, 0]) := by decide

/-- H22. -/
theorem test_setop : shows (fun t => (t.regs.op, t.status, t.inputs)) (step (hostAt (.regWrite 32 0 0x003))) =
    some (3, 0, []) := by decide
/-- 47_host_operations.md R342. -/
theorem test_start :
    shows (fun t => (t.engine, t.status, t.cnt.zfail, t.g5Out))
      (step { hostAt (.regWrite 32 0 0x104) with status := 0x102, cnt := { Counters.zero with zfail := 3 }, g5Out := 9 }) =
    some (.launched, 1, 0, 0) := by decide
/-- H21. -/
theorem test_start_busy : refusal (exec (.start 1) (launchedAt 1 id)) = some .startBusy := by decide

/-- H13. -/
theorem test_nop : shows (fun t => (t.status, t.engine)) (step (launchedAt 0 id)) = some (0x2, .idle) := by decide
/-- H1. -/
theorem test_decode_bad : shows (fun t => (t.status, t.pbByte 0)) (step (launchedAt 1 id)) = some (0x6, 0x5A) := by decide
/-- H5: the planes are cleared before framing. -/
theorem test_decode_begins :
    shows (fun t => (t.engine, t.pbByte 0, t.pbByte 1)) (step (launchedAt 1 (fun r => { r with width := 8, height := 1, bpp := 1 }))) =
      some (.framing 0, 0, 0x5A) := by decide
/-- H12. -/
theorem test_render_begins :
    shows State.engine (step (launchedAt 2 (fun r => { r with width := 4, height := 4, bpp := 1 }))) =
      some (.drawing 0 0 []) := by decide
/-- H8: two BLACK entries. -/
theorem test_render_two_blacks :
    shows State.status (step { launchedAt 2 (fun r => { r with width := 4, height := 4, bpp := 1, ctCount := 2 }) with
      ct := [(0, 0x1000000), (1, 0x1000005)] }) = some 0x6 := by decide
/-- H20: two WHITE entries are found before decoding. -/
theorem test_decode_render_two_whites :
    shows (fun t => (t.status, t.pbByte 0))
      (step { launchedAt 3 (fun r => { r with width := 8, height := 2, bpp := 1, ctCount := 3 }) with
        ct := [(0, 0x1000000), (1, 0x2000000), (2, 0x2000001)] }) = some (0x6, 0x5A) := by decide
/-- 47_host_operations.md R348: with a legal configuration it begins as DECODE does. -/
theorem test_decode_render_begins :
    shows State.engine (step (launchedAt 3 (fun r => { r with width := 8, height := 2, bpp := 1 }))) =
      some (.framing 0) := by decide
/-- H18, first step. -/
theorem test_g5_begins :
    shows g5Shown (step (launchedAt 4 (fun r => { r with inLen := 2, expLen := 8 }))) = some (some ([], 0)) := by decide
/-- H17: EXPLEN exceeds PB. -/
theorem test_g5_too_long :
    shows State.status (step (launchedAt 4 (fun r => { r with inLen := 5, expLen := 17 }))) = some 0x6 := by decide
/-- H14, and the other two reserved operations. -/
theorem test_reserved_operations :
    shows State.status (step (launchedAt 5 id)) = some 0x6 ∧ shows State.status (step (launchedAt 6 id)) = some 0x6 ∧
    shows State.status (step (launchedAt 7 id)) = some 0x6 := by decide

/-- P4, pixel 1: the colour plane's bit alone; the first OTHER entry wins. -/
theorem test_plane_colour :
    shows (workShown 1) (step (pixelAt 1 0 [0xA0, 0xC0] 4 1 2
      [(0, 0x1000000), (1, 0x2FFFFFF), (2, 0x0FF0000), (3, 0x000FF00)] 4)) = some (some 0xFF0000) := by decide
/-- P2, pixel 0: no BLACK entry. -/
theorem test_plane_key_miss :
    shows (fun t => (workShown 0 t, t.status)) (step (pixelAt 0 0 [0x80] 2 1 1 [(0, 0x2EEEEEE)] 1)) =
      some (some 0xFFFFFF, 0x1001) := by decide
/-- X1, pixel 2: index 6 spans two bytes. -/
theorem test_index_spans_bytes :
    shows State.engine (step (pixelAt 2 0 [0xA7, 0x00] 3 1 3 [(5, 0x50), (6, 0x60)] 16)) =
      some (.drawing 0 1 [(2, 0x60)]) := by decide
/-- X5, pixel 1: index 5 with N = 3. -/
theorem test_index_out_of_range :
    shows (fun t => (t.engine, t.status)) (step (pixelAt 1 0 [0x02, 0x05] 2 1 8 [(0, 0xAA0000)] 3)) =
      some (.drawing 0 1 [], 0x801) := by decide

/-- The finished grid of rotation vector R1: rows 0 1 2 and 3 4 5. -/
def gridR1 : Memory 24 := [(0, 0), (1, 1), (2, 2), (3, 3), (4, 4), (5, 5)]

/-- Rotation vector R1. -/
theorem test_rot0 : shows (image 6) (step (gridAt 3 2 0 gridR1)) = some [0, 1, 2, 3, 4, 5] := by decide
/-- Rotation vector R1. -/
theorem test_rot1 : shows (image 6) (step (gridAt 2 3 1 gridR1)) = some [3, 0, 4, 1, 5, 2] := by decide
/-- Rotation vector R1. -/
theorem test_rot2 : shows (image 6) (step (gridAt 3 2 2 gridR1)) = some [5, 4, 3, 2, 1, 0] := by decide
/-- Rotation vector R1, and completion (47_host_operations.md R350). -/
theorem test_rot3 :
    shows (fun t => (image 6 t, t.status, t.engine)) (step (gridAt 2 3 3 gridR1)) = some ([2, 5, 1, 4, 0, 3], 0x2, .idle) := by
  decide

/-! ## The transitions that are no instruction -/

/-- F7: 2 bytes left. -/
theorem test_tail :
    shows (fun t => (t.status, t.engine)) (step (busyAt (.framing 11) [] [] (fun r => { byEight r with inLen := 13 }))) =
      some (0x12, .idle) := by decide
/-- F11: rows 6 to 9 clamp to 6 and 7. -/
theorem test_assemble_clamped :
    shows (fun t => (t.pbBytes 5 4, t.status, t.cnt.applied)) (step (blockAt [6, 0, 4, 0, 0, 0, 1, 2, 3, 4] [] byEight)) =
      some ([0, 1, 2, 0], 0x41, 1) := by decide
/-- F12: bpr 2, 3 of 4 bytes. -/
theorem test_assemble_short :
    shows (fun t => (t.pbBytes 1 5, t.status))
      (step (blockAt [1, 0, 2, 0, 0, 0, 0xC1, 0xC2, 0xC3] [] (fun r => { byEight r with width := 16, height := 4 }))) =
      some ([0, 0xC1, 0xC2, 0xC3, 0], 0x81) := by decide
/-- F4, second block: flag bit 1 is plane 1. -/
theorem test_assemble_plane_one :
    shows (fun t => t.pbBytes 7 2) (step (blockAt [0, 0, 1, 0, 0, 1, 0xFF] [] (fun r => { byEight r with bpp := 2 }))) =
      some [0, 0xFF] := by decide
/-- H18, last step. -/
theorem test_g5_ends :
    shows (fun t => (t.pbBytes 0 2, t.status, t.g5Out, t.g5In)) (step (g5At [0x05, 0x11] 8 7 [0x11])) =
      some ([0x11, 0], 0x402, 1, 7) := by decide

/-! ## The host -/

/-- 20_memory.md R74. -/
theorem test_host_bad_access :
    refusal (step (hostAt (.regRead 16 4))) = some .regAccess ∧ refusal (step (hostAt (.regRead 32 0x500))) = some .regAccess ∧
    refusal (step (hostAt (.inRead 16))) = some .memAccess ∧ refusal (step (hostAt (.imgWrite 0 0))) = some .memAccess := by
  decide
/-- 10_state.md R34: bits 31:26 of a colour-table entry read 0. -/
theorem test_host_ct :
    (small.regWrite (.ct 3) 0xFFFFFFFF).regRead (.ct 3) = 0x03FFFFFF := by decide

/-! ## What the statements assume can be met

For every statement with hypotheses a concrete state and operands that meet all of them, clause by clause, at the edges of
each range. -/

theorem test_met_DecodeEncodeRoundTrip :
    (Instr.dflLen 257).wf ∧ (Instr.dflLen 285).wf ∧ (Instr.dflLenRsv 286).wf ∧ (Instr.dflLenRsv 287).wf ∧
    (Instr.dflDist 29).wf ∧ (Instr.dflDistRsv 30).wf ∧ (Instr.planeRead 1).wf ∧ (Instr.planeRead 2).wf ∧
    (Instr.indexExtract 3).wf ∧ (Instr.indexExtract 8).wf ∧ (Instr.payG5 0x0179 0 0 0).wf ∧ (Instr.payRaw 0x0278 0 0 0).wf := by
  decide

theorem test_met_DecodedInstructionIsWellFormed : decode .symLit [0x1D, 0x01] = .ok (.dflLen 285) := by decide

theorem test_met_EveryByteIsOneG5Command :
    (0x7F : Byte).toNat < 0x80 ∧ (0x80 ≤ (0x80 : Byte).toNat ∧ (0xBF : Byte).toNat < 0xC0) ∧ 0xC0 ≤ (0xC0 : Byte).toNat := by
  decide

/-- A payload of 2 bytes for each magic; then none of them with 5 bytes, with 6 and the format bit set, with 6 and it clear. -/
theorem test_met_PayloadClassifiedInOrder :
    (∀ flg : Byte, 2 ≤ [0x78#8, flg].length ∧ [0x78#8, flg][0]? = some 0x78 ∧ [0x78#8, flg][1]? = some flg) ∧
    ([0x78#8, 0x00, 0, 0, 0].length < 6 ∧ [0x78#8, 0x00, 0, 0, 0][1]? ≠ some 0x01 ∧ [0x78#8, 0x00, 0, 0, 0][1]? ≠ some 0x9C ∧
      [0x78#8, 0x00, 0, 0, 0][1]? ≠ some 0xDA) ∧
    ([0x79#8, 0x01, 0, 0, 0x01, 0][0]? ≠ some 0x78 ∧ (0x01 : Byte).getLsbD 0 = true ∧ (0xFE : Byte).getLsbD 0 = false) :=
  ⟨fun _ => ⟨by simp, rfl, rfl⟩, by decide, by decide⟩

theorem test_met_IgnoredBitsHaveNoEffect :
    (busyAt .launched [] [] (fun r => { r with bpp := 2 })).b = 2 ∧ (0xFE : Byte).getLsbD 0 = (0x00 : Byte).getLsbD 0 ∧
    (busyAt .launched [] [] (fun r => { r with bpp := 1 })).b ≠ 2 := by decide

/-- One state for each of the eleven places an instruction is read in. -/
theorem test_met_StepRunsTheDecodedInstruction :
    ((g5At [0x83] 8 0 []).inputs = [] ∧ ({ src := [0x83], exp := 8, gpos := 0, out := [] } : G5Run).running ∧
      decode .g5Cmd ([0x83#8].drop 0) = .ok (.runB 0 3)) ∧
    (let s := busyAt (.framing 0) [0x0E, 0, 0, 0] [] (fun r => { byEight r with inLen := 4 })
     s.inputs = [] ∧ decode .stream (s.inBytes 0 (s.regs.inLen.toNat - 0)) = .ok (.frame 14)) ∧
    decode .payload ([] : Bytes) = .ok .payShort ∧
    decode .ctrlLaunch (bytes32le (ctrlWord true (launchedAt 7 id).regs.op)) = .ok .opRsv7 ∧
    (let s := pixelAt 1 0 [] 2 1 2 [] 0
     1 < s.we ∧ 0 < s.he ∧ decode .fmtPixel (bytes32le (s.regRead .fmt)) = .ok (.planeRead 2)) ∧
    decode .fmtRotate (bytes32le ((gridAt 1 1 3 []).regRead .fmt)) = .ok (.rot3 8) ∧
    (let r : BitReader := { src := [0x07], q := 0, t := 0 }
     r.bits 3 = .ok (7, { src := [0x07], q := 0, t := 3 }) ∧ decode .dflBlock [BitVec.ofNat 8 7] = .ok (.dflBtype3 true)) ∧
    (let T : HuffCode := [{ len := 1, code := 1, sym := 18 }]
     let r : BitReader := { src := [0x01], q := 0, t := 0 }
     T.decode r = .ok (18, { src := [0x01], q := 0, t := 1 }) ∧ 18 < 65536 ∧ ([] : List Nat).length < 257 + 1 ∧
       decode .symLit (symbolBytes 18) = .ok (.dflLit 18) ∧ decode .symDist (symbolBytes 18) = .ok (.dflDist 18) ∧
       decode .symCl (symbolBytes 18) = .ok .dflClRep18) ∧
    decode .ctrlWrite (bytes32le 0x103) = .ok (.start 3) := by decide

/-- The turns: an input that still waits by one step, a poll while BUSY, a read that no longer waits, and in IDLE a CTRL write
that waits and a poll. -/
theorem test_met_StepTurns :
    (∀ h ∈ [({ wait := 1, action := .inRead 0 } : HostInput), { wait := 0, action := .poll }],
      (launchedAt 0 id).engine ≠ .idle ∧ (0 < h.wait ∨ h.action = .poll) ∧
      shows (fun t => (t.status, t.inputs.map HostInput.wait)) (step ((launchedAt 0 id).setInputs [h])) = some (0x2, [0])) ∧
    (let h : HostInput := { wait := 0, action := .inRead 0 }
     (h.wait = 0 ∧ h.action ≠ .poll) ∧
     shows (fun t => (t.status, t.responses, t.inputs)) (step ((launchedAt 0 id).setInputs [h])) = some (0x1, [.byte 0], [])) ∧
    (let s := small.setInputs [{ wait := 7, action := .regWrite 32 0 0x103 }]
     s.engine = .idle ∧ decode .ctrlWrite (bytes32le 0x103) = .ok (.start 3) ∧
     shows (fun t => (t.engine, t.regs.op, t.inputs)) (step s) = some (.launched, 3, [])) ∧
    shows (fun t => (t.responses, t.inputs)) (step { hostAt .poll with status := 0x102 }) = some ([.word 0x102], []) := by
  decide

theorem test_met_G5Commands :
    (let g : G5Run := { src := [0x83], exp := 1, gpos := 0, out := [] }
     (g5At [0x83] 1 0 []).engine = .g5 .standalone g ∧ g.gpos < g.src.length ∧ g.out.length < g.exp) ∧
    (0xBF : Byte) &&& 0xC0 = 0x80 ∧ (0xC0 : Byte) &&& 0xC0 = 0xC0 ∧ (0x7F : Byte) &&& 0x80 = 0 := by decide

theorem test_met_G5TrailingInputIsNeverRead : (g5Decode [0x83] 4).out.length = 4 ∧ (g5Decode [] 0).out.length = 0 := by decide

theorem test_met_EndOfG5DecodeRecordsItsResult :
    (let g : G5Run := { src := [0x05, 0x11], exp := 8, gpos := 7, out := [0x11] }
     (g5At [0x05, 0x11] 8 7 [0x11]).engine = .g5 .standalone g ∧ g.running = false ∧ g.out.length ≤ small.caps.pbCap) ∧
    (busyAt (.g5 (.block 16 [0, 0, 2, 0, 1, 0]) { src := [0x81], exp := 2, gpos := 1, out := [0, 0] }) [] [] byEight).engine =
      .g5 (.block 16 [0, 0, 2, 0, 1, 0]) { src := [0x81], exp := 2, gpos := 1, out := [0, 0] } := by decide

theorem test_met_G5PseudoInstructions : 1 ≤ 1 ∧ [0x00#8] ≠ [] := by decide

/-- Exactly 4 bytes left; then L one above what remains, and equal to it; then 3 left and none. -/
theorem test_met_Framing :
    (let s := busyAt (.framing 3) [] [] (fun r => { byEight r with inLen := 7 })
     s.engine = .framing 3 ∧ 3 + 4 ≤ s.regs.inLen.toNat ∧ s.regs.inLen.toNat ≤ s.caps.inCap ∧
       s.regs.inLen.toNat - (3 + 4) < (1 : Word).toNat ∧ (0 : Word).toNat ≤ s.regs.inLen.toNat - (3 + 4)) ∧
    (let s := busyAt (.framing 3) [] [] (fun r => { byEight r with inLen := 6, op := 3 })
     s.engine = .framing 3 ∧ s.regs.inLen.toNat < 3 + 4 ∧ s.regs.op = 3) ∧
    (let s := busyAt (.framing 3) [] [] (fun r => { byEight r with inLen := 3 })
     s.regs.inLen.toNat < 3 + 4 ∧ s.regs.op ≠ 3) := by decide

/-- Payloads of each class, at 5 and at 6 bytes. -/
theorem test_met_Payloads :
    (payloadAt [0, 0, 0, 0, 0]).engine = .resolving 16 [0, 0, 0, 0, 0] ∧ [0#8, 0, 0, 0, 0].length < 6 ∧
    isZlib [0, 0, 0, 0, 0] = false ∧
    (6 ≤ [0#8, 0, 0, 0, 0, 0].length ∧ isZlib [0, 0, 0, 0, 0, 0] = false ∧ (byteAt [0, 0, 0, 0, 0, 0] 4).getLsbD 0 = false) ∧
    isZlib [0x78, 0xDA] = true ∧ (isZlib [0, 0, 2, 0, 1, 0, 0x81] = false ∧ (1 : Byte).getLsbD 0 = true) := by decide

theorem test_met_DeflateContexts :
    (let z : Inflate := { br := { src := [], q := 0, t := 0 }, out := [], adler := AdlerSums.begin, final := true, mode := .header }
     (inflateAt [] [] .header).engine = .inflating 16 z ∧ z.context = some (formatOf (.dflBtype3 false)) ∧
     (z.setMode (.body [] [])).context = some (formatOf (.dflLenRsv 286)) ∧
     (z.setMode (.distance [] [] 3)).context = some (formatOf (.dflDistRsv 30)) ∧
     (z.setMode (.lengths 257 1 [] [])).context = some (formatOf .dflClRep16)) := by decide

/-- A good stored block of one byte from a reader inside a byte, and one whose byte is missing. -/
theorem test_met_StoredBlockAppendsItsBytes :
    (let src : Bytes := [0x01, 0x01, 0x00, 0xFE, 0xFF, 0x41]
     0 + 1 + 4 + (src.getD 1 0).toNat ≤ src.length ∧ (0xFE : Byte).toNat + 256 * (0xFF : Byte).toNat = 65535 - 1) ∧
    ¬ (5 + 1 ≤ [0x01#8, 0x01, 0x00, 0xFE, 0xFF].length) := by decide

/-- The header bits of `test_dynamic_header`, no bits at all, too many codes, and a header whose lengths are missing. -/
theorem test_met_DynamicHeaderIsRead :
    (let r : BitReader := { src := [0x04, 0x00, 0x80, 0x04], q := 0, t := 3 }
     r.bits 14 = .ok (0, { src := [0x04, 0x00, 0x80, 0x04], q := 2, t := 1 }) ∧
     BitReader.bits 12 { src := [0x04, 0x00, 0x80, 0x04], q := 2, t := 1 } =
       .ok (576, { src := [0x04, 0x00, 0x80, 0x04], q := 3, t := 5 }) ∧
     buildCode [1, 0, 0, 0, 0, 0, 0, 0, 0, 0, 0, 0, 0, 0, 0, 0, 0, 0, 1] .cl =
       .ok [{ len := 1, code := 0, sym := 0 }, { len := 1, code := 1, sym := 18 }] ∧
     buildCode (List.replicate 19 0) .cl = .error .clCode) ∧
    (BitReader.bits 14 { src := [], q := 0, t := 0 } = .error .trunc) ∧
    (BitReader.bits 14 { src := [0x1E, 0x00], q := 0, t := 0 } = .ok (30, { src := [0x1E, 0x00], q := 1, t := 6 }) ∧
      286 < 30 % 32 + 257) ∧
    BitReader.bits 12 { src := [0x1E, 0x00], q := 1, t := 6 } = .error .trunc := by decide

/-- Both ends of the length symbols and of the distance symbols, their bits present and missing. -/
theorem test_met_LengthAndDistanceSymbols :
    (257 ≤ (257 : BitVec 9).toNat ∧ (285 : BitVec 9).toNat ≤ 285 ∧ (29 : BitVec 5).toNat ≤ 29) ∧
    BitReader.bits 0 { src := [], q := 0, t := 0 } = .ok (0, { src := [], q := 0, t := 0 }) ∧
    BitReader.bits 5 { src := [0x1F], q := 0, t := 0 } = .ok (31, { src := [0x1F], q := 0, t := 5 }) ∧
    BitReader.bits 13 { src := [0x1F], q := 0, t := 0 } = .error .trunc ∧
    (inflateAt [] [0x41] (.distance [] [] 3)).engine = .inflating 16
      { br := { src := [], q := 0, t := 0 }, out := [0x41], adler := { s1 := 66, s2 := 66 }, final := true,
        mode := .distance [] [] 3 } ∧
    [0x41#8].length < 1 + 1 ∧ 1 + 0 ≤ [0x41#8].length := by decide

theorem test_met_CodeLengthSymbols :
    (let lens := [5, 6]
     lens.length + 6 ≤ 7 + 1 ∧ 6 + 1 < lens.length + 6 ∧ lens.getLast? = some 6) ∧
    BitReader.bits 2 { src := [0x03], q := 0, t := 0 } = .ok (3, { src := [0x03], q := 0, t := 2 }) ∧
    BitReader.bits 3 { src := [0x07], q := 0, t := 0 } = .ok (7, { src := [0x07], q := 0, t := 3 }) ∧
    BitReader.bits 7 { src := [0x7F], q := 0, t := 0 } = .ok (127, { src := [0x7F], q := 0, t := 7 }) ∧
    BitReader.bits 2 { src := [], q := 0, t := 0 } = .error .trunc ∧
    BitReader.bits 3 { src := [], q := 0, t := 0 } = .error .trunc ∧
    BitReader.bits 7 { src := [], q := 0, t := 0 } = .error .trunc := by decide

theorem test_met_CompleteLengths :
    (∀ n, (List.replicate n 0 ++ [1, 1]).length = n + 2 ∧ (List.replicate n 0 ++ [1, 1]).getD n 0 ≠ 0) ∧
    (∀ n, (List.replicate (n + 2) 0).getD n 0 = 0) ∧ 257 + 1 ≤ 256 + 2 :=
  ⟨fun n => by simp, fun n => by simp, by decide⟩

/-- Codes that build and codes that do not; a trailer that is right, wrong
and missing (Z11, Z6, Z7). -/
theorem test_met_TablesAndTrailerDecideThePayload :
    buildCode [0, 1] .lit = .ok [{ len := 1, code := 0, sym := 1 }] ∧
    buildCode [1] .dist = .ok [{ len := 1, code := 0, sym := 0 }] ∧
    buildCode [1, 1, 1] .lit = .error .litCode ∧ buildCode [2] .dist = .error .distCode ∧
    (let z : Inflate := { br := { src := [0, 0, 0, 1], q := 0, t := 0 }, out := [], adler := AdlerSums.begin, final := true,
                          mode := .trailer }
     z.mode = .trailer ∧ z.adler = AdlerSums.begin.feed z.out ∧ z.br.src.drop 0 = 0 :: 0 :: 0 :: 1 :: [] ∧
       0 * 2 ^ 24 + 0 * 2 ^ 16 + 0 * 2 ^ 8 + 1 = adler32 z.out ∧ 0 * 2 ^ 24 + 0 * 2 ^ 16 + 0 * 2 ^ 8 + 2 ≠ adler32 z.out) ∧
    [0#8, 0, 0].length < 0 + 4 := by decide

/-- A code word of two bits after a shorter one that does not match; bits that spell no code word, 15 of them and too few;
and a code in which the last symbol has a length and the one before it has none. -/
theorem test_met_HuffmanCodes :
    (let T : HuffCode := [{ len := 1, code := 0, sym := 9 }, { len := 2, code := 2, sym := 7 }]
     let r : BitReader := { src := [0x01], q := 0, t := 0 }
     r.bits 1 = .ok (1, { src := [0x01], q := 0, t := 1 }) ∧ r.bits 2 = .ok (1, { src := [0x01], q := 0, t := 2 }) ∧
     (2 < 2 ^ 2 ∧ ∀ j < 2, (2 : Nat).testBit (2 - 1 - j) = (1 : Nat).testBit j) ∧ (0 : Nat).testBit 0 ≠ (1 : Nat).testBit 0 ∧
     T.decode r = .ok (7, { src := [0x01], q := 0, t := 2 })) ∧
    (let T : HuffCode := [{ len := 1, code := 0, sym := 9 }]
     T.decode { src := [0xFF, 0xFF], q := 0, t := 0 } = .error .badCode ∧
     T.decode { src := [0xFF], q := 0, t := 0 } = .error .trunc) ∧
    (let lens := [2, 1, 0, 2]
     (∀ l ∈ lens, l ≤ 15) ∧ lens[3]? = some 2 ∧ buildCode lens .lit =
       .ok [{ len := 2, code := 2, sym := 0 }, { len := 1, code := 0, sym := 1 }, { len := 2, code := 3, sym := 3 }]) := by
  decide

theorem test_met_InflateStepsReachTheResult :
    (busyAt (.inflating 16 (Inflate.begin [0x78, 0xDA, 0x07])) [] [] byEight).engine =
      .inflating 16 (Inflate.begin [0x78, 0xDA, 0x07]) := by decide

theorem test_met_Assembler :
    (blockAt [6, 0, 4, 0, 0, 0] [] byEight).engine = .dispatching 16 [6, 0, 4, 0, 0, 0] ∧
    (blockAt [6, 0, 4, 0, 0, 0] [] byEight).np * (blockAt [6, 0, 4, 0, 0, 0] [] byEight).psize ≤ small.caps.pbCap ∧
    (let s := blockAt [] [] (fun r => { byEight r with bpp := 2 }); s.np * s.psize = s.caps.pbCap) ∧
    [0#8, 0, 0, 0, 0].length < 6 := by decide

/-- A stored zlib stream of a 6-byte raw block, and a G5 block of one black byte beside its raw form. -/
theorem test_met_CodecsAreTransparent :
    (let d : Bytes := [0, 0, 1, 0, 0, 0]
     let p : Bytes := [0x78, 0x01, 0x01, 0x06, 0x00, 0xF9, 0xFF, 0, 0, 1, 0, 0, 0, 0x00, 0x0A, 0x00, 0x02]
     isZlib p = true ∧ inflate p = .ok d ∧ 6 ≤ d.length ∧ isZlib d = false ∧ (byteAt d 4).getLsbD 0 = false) ∧
    (let s := payloadAt []
     s.np * s.psize ≤ s.caps.pbCap ∧ isZlib [0, 0, 1, 0, 0 ||| 1, 0, 0x80] = false ∧ [0x00#8] ≠ [] ∧
       ((1 : Byte).toNat + 256 * (0 : Byte).toNat) * s.bpr = [0x00#8].length ∧ (g5Decode [0x80] 1).out = [0x00]) := by decide

/-- The last pixel of a grid at 1, 2, 3 and 8 bits, with a key found, a key missing, an index below N and one at N. -/
theorem test_met_Pixels :
    (let s := pixelAt 1 1 [0xA0] 2 2 1 [(0, 0x1000000)] 1
     s.engine = .drawing 1 1 [] ∧ 1 < s.we ∧ 1 < s.he ∧ s.regs.bpp = 1 ∧ s.np * s.psize ≤ s.caps.pbCap ∧
       (0 < s.n ∧ s.ctTag 0 = 1 ∧ ∀ j, j < 0 → s.ctTag j ≠ 1) ∧ (∀ i < s.n, s.ctTag i ≠ 2) ∧ (∀ i < s.n, s.ctTag i ≠ 0)) ∧
    (let s := pixelAt 1 1 [0xA0] 2 2 2 [(1, 0x2000000)] 2
     1 < s.we ∧ 1 < s.he ∧ s.regs.bpp.toNat = 2 ∧ s.np * s.psize ≤ s.caps.pbCap ∧
       (0 < s.n ∧ s.ctTag 0 = 0) ∧ (1 < s.n ∧ s.ctTag 1 = 2 ∧ ∀ j < 1, s.ctTag j ≠ 2) ∧ (∀ i < s.n, s.ctTag i ≠ 1)) ∧
    (let s := pixelAt 1 1 [] 2 2 3 [] 3
     1 < s.we ∧ 1 < s.he ∧ 3 ≤ s.regs.bpp.toNat ∧ s.np * s.psize ≤ s.caps.pbCap ∧ 2 < s.n ∧ s.n ≤ 3) ∧
    (let s := pixelAt 1 1 [] 2 2 8 [] 0
     1 < s.we ∧ 1 < s.he ∧ s.regs.bpp.toNat ≤ 8 ∧ s.np * s.psize ≤ s.caps.pbCap ∧ s.n ≤ 0) := by decide

theorem test_met_Rotations :
    (gridAt 4 4 0 []).engine = .rotating [] ∧ (gridAt 4 4 0 []).w * (gridAt 4 4 0 []).h = (gridAt 4 4 0 []).caps.imgCap ∧
    (gridAt 3 2 2 []).regs.rot = 2 ∧ (gridAt 2 3 1 []).regs.rot = 1 ∧ (gridAt 2 3 3 []).regs.rot = 3 := by decide

/-- Each case of the derived geometry: W and H of 9 and 5, at b = 1, 2, 3 and 8, rotated and not. -/
theorem test_met_Geometry :
    (let g (b : BitVec 4) (rot : BitVec 2) : State :=
       busyAt .launched [] [] (fun r => { r with width := 9, height := 5, bpp := b, rot := rot })
     ((g 1 0).bpr, (g 1 0).np, (g 1 0).psize) = (2, 1, 10) ∧ ((g 2 3).bpr, (g 2 3).np, (g 2 3).psize) = (1, 2, 9) ∧
     ((g 3 2).bpr, (g 3 2).np, (g 3 2).psize) = (4, 1, 20) ∧ ((g 8 1).bpr, (g 8 1).np, (g 8 1).psize) = (5, 1, 45)) := by
  decide

theorem test_met_CtrlWrites : small.engine = .idle := rfl

theorem test_met_LaunchedOperations :
    (launchedAt 0 id).regs.op = 0 ∧ (launchedAt 1 id).configOk 1 = false ∧ (launchedAt 2 id).configOk 2 = false ∧
    (launchedAt 3 id).configOk 3 = false ∧ (launchedAt 4 (fun r => { r with expLen := 17 })).configOk 4 = false ∧
    (launchedAt 4 (fun r => { r with inLen := 16, expLen := 16 })).configOk 4 = true ∧
    (launchedAt 1 (fun r => { r with width := 8, height := 16, bpp := 1 })).configOk 1 = true ∧
    (launchedAt 2 (fun r => { r with width := 4, height := 4, bpp := 8 })).configOk 2 = true ∧
    (launchedAt 3 (fun r => { r with width := 1, height := 1, bpp := 2, inLen := 16 })).configOk 3 = true ∧
    (launchedAt 7 id).engine = .launched ∧ (launchedAt 7 id).status = 0x1 := by decide

/-- Every frame's instruction answers a next state somewhere. -/
theorem test_met_Frames :
    (∀ r ∈ [exec (.lit 0) (g5At [0] 8 0 []), exec (.runB 0 0) (g5At [0] 8 0 []), exec (.runW 0 0) (g5At [0] 8 0 []),
        exec (.frame 0) (busyAt (.framing 0) [] [] (fun r => { byEight r with inLen := 4 })),
        exec .payZlib7801 (payloadAt []), exec .payZlib789C (payloadAt []), exec .payZlib78DA (payloadAt []),
        exec .payShort (payloadAt []), exec (.payG5 0 0 0 0) (payloadAt []), exec (.payRaw 0 0 0 0) (payloadAt []),
        exec (.dflStored true) (inflateAt [] [] .header), exec (.dflFixed true) (inflateAt [] [] .header),
        exec (.dflDynamic true) (inflateAt [] [] .header), exec (.dflBtype3 true) (inflateAt [] [] .header),
        exec (.dflLit 0) (inflateAt [] [] (.body [] [])), exec .dflEob (inflateAt [] [] (.body [] [])),
        exec (.dflLen 257) (inflateAt [] [] (.body [] [])), exec (.dflLenRsv 286) (inflateAt [] [] (.body [] [])),
        exec (.dflDist 0) (inflateAt [] [] (.distance [] [] 3)), exec (.dflDistRsv 30) (inflateAt [] [] (.distance [] [] 3)),
        exec (.dflClLen 0) (inflateAt [] [] (.lengths 257 1 [] [])), exec .dflClRep16 (inflateAt [] [] (.lengths 257 1 [] [])),
        exec .dflClRep17 (inflateAt [] [] (.lengths 257 1 [] [])), exec .dflClRep18 (inflateAt [] [] (.lengths 257 1 [] []))],
      (shows (fun _ => ()) r).isSome) ∧
    (∀ r ∈ [exec (.ctrlSetop 3) small, exec (.start 3) small, exec .nop (launchedAt 0 id), exec .decode (launchedAt 1 id),
        exec .render (launchedAt 2 id), exec .decodeRender (launchedAt 3 id), exec .g5 (launchedAt 4 id),
        exec .opRsv5 (launchedAt 5 id), exec .opRsv6 (launchedAt 6 id), exec .opRsv7 (launchedAt 7 id),
        exec (.planeRead 1) (pixelAt 0 0 [] 1 1 1 [] 0), exec (.indexExtract 8) (pixelAt 0 0 [] 1 1 8 [] 0),
        exec (.rot0 8) (gridAt 1 1 0 []), exec (.rot1 8) (gridAt 1 1 1 []), exec (.rot2 8) (gridAt 1 1 2 []),
        exec (.rot3 8) (gridAt 1 1 3 [])],
      (shows (fun _ => ()) r).isSome) := by decide

theorem test_met_Registers :
    RegName.ct 0 ≠ RegName.ct 1 ∧ (0x03C ≤ 0x03C ∧ 0x0FF < 0x100) ∧ 255 < 256 ∧ (16 ≠ 32 ∨ 4 % 4 ≠ 0 ∨ 0x500 ≤ 4) ∧
    (32 ≠ 32 ∨ 2 % 4 ≠ 0 ∨ 0x500 ≤ 2) ∧ (32 ≠ 32 ∨ 0x500 % 4 ≠ 0 ∨ 0x500 ≤ 0x500) ∧ small.caps.inCap ≤ 16 ∧
    small.caps.pbCap ≤ 16 ∧ small.caps.imgCap ≤ 16 := by decide

/-- A state in BUSY and one in IDLE, a legal offset that is not CTRL, one that is not STATUS, START set and clear, and the
last address of each memory. -/
theorem test_met_HostAccesses :
    (launchedAt 0 id).busy = true ∧ small.engine = .idle ∧ regAccessOk 32 0x4FC = true ∧ regAt 0x4FC ≠ .ctrl ∧
    regAt 0x4FC ≠ .status ∧ (0x3 : Word).getLsbD 8 = false ∧ (0x103 : Word).getLsbD 8 = true ∧ 15 < small.caps.inCap ∧
    15 < small.caps.pbCap ∧ 15 < small.caps.imgCap := by decide

/-- The last address of a memory with two entries, the first address outside it, and an address without an entry. -/
theorem test_met_ResetInput :
    (let cells : List Host.Cell := [(15, 1), (15, 2), (16, 3)]
     cells = [(15, 1)] ++ (15, 2) :: [(16, 3)] ∧ (∀ c ∈ [((16 : Nat), (3 : Byte))], c.1 ≠ 15) ∧ 15 < small.caps.inCap ∧
     small.caps.inCap ≤ 16 ∧ (∀ c ∈ cells, c.1 ≠ 14) ∧
     shows (fun t => (t.inByte 15, t.inByte 16, t.inByte 14)) (hostAct (.reset cells [] []) (launchedAt 0 id)) =
       some (2, 0, 0)) := by decide

theorem test_met_CanonicalMemories :
    Memory.wf (0 : Byte) [(3, 1), (7, 2)] ∧ ∀ a, Memory.read (0 : Byte) [(3, 1), (7, 2)] a = Memory.read 0 [(3, 1), (7, 2)] a :=
  ⟨by decide, fun _ => rfl⟩

/-- A launched operation with 4 × 4 pixels of 8 bits satisfies the invariant, whatever the operation. -/
theorem test_met_Inv : ∀ op : BitVec 3, (launchedAt op (fun r => { r with width := 4, height := 4, bpp := 8 })).Inv := by
  intro op
  have h : ∀ op : BitVec 3, let s := launchedAt op (fun r => { r with width := 4, height := 4, bpp := 8 })
      s.caps = small.caps ∧ s.ct = [] ∧ s.inMem = [] ∧ s.pbMem = [(0, 0x5A), (1, 0x5A)] ∧ s.imgMem = [] ∧ s.status = 1 := by
    decide
  obtain ⟨hc, ht, hi, hp, hg, hs⟩ := h op
  exact
    { caps := by rw [hc]; decide
      memories :=
        { ctWf := ht ▸ by decide
          ctBelow := ht ▸ by decide
          inWf := hi ▸ by decide
          inBelow := hi ▸ by simp
          pbWf := hp ▸ by decide
          pbBelow := by rw [hp, hc]; decide
          imgWf := hg ▸ by decide
          imgBelow := hg ▸ by simp }
      reserved := hs ▸ by decide
      busyFlag := hs ▸ rfl
      doneFlag := fun _ => hs ▸ rfl
      nextPlane := rfl
      engine := ⟨rfl, rfl, rfl, rfl⟩ }

/-- The last pixel of a rendering satisfies it too, and so does a stream with one byte left. -/
theorem test_met_Inv_at_work :
    (pixelAt 3 3 [] 4 4 8 [] 0).Inv ∧ (busyAt (.framing 15) [] [] (fun r => { byEight r with inLen := 16 })).Inv :=
  ⟨{ caps := by decide
     memories := ⟨by decide, by decide, by decide, by decide, by decide, by decide, by decide, by decide⟩
     reserved := by decide
     busyFlag := by decide
     doneFlag := by decide
     nextPlane := rfl
     engine := ⟨⟨.inl rfl, by decide⟩, ⟨by decide, by decide⟩, .inl (by decide)⟩ },
   { caps := by decide
     memories := ⟨by decide, by decide, by decide, by decide, by decide, by decide, by decide, by decide⟩
     reserved := by decide
     busyFlag := by decide
     doneFlag := by decide
     nextPlane := rfl
     engine := ⟨⟨.inl rfl, by decide⟩, by decide⟩ }⟩

/-- Each operation's engine step is a next state there; the machine's step too, and a rendering is accepted. -/
theorem test_met_WholeMachine :
    (∀ op : BitVec 3, (shows State.engine (engineStep (launchedAt op (fun r => { r with width := 4, height := 4, bpp := 8 })))).isSome ∧
      (shows State.engine (step (launchedAt op (fun r => { r with width := 4, height := 4, bpp := 8 })))).isSome) ∧
    (launchedAt 2 (fun r => { r with width := 4, height := 4, bpp := 8 })).engine = .launched ∧
    (launchedAt 2 (fun r => { r with width := 4, height := 4, bpp := 8 })).configOk 2 = true ∧
    (small.status.getLsbD 1 = false ∧ (launchedAt 2 id).status.getLsbD 0 = true) ∧
    (let s := { launchedAt 0 id with status := 0x1809 }; s.status.getLsbD 3 = true ∧ s.status.getLsbD 12 = true) := by decide

end Sys2Proof.Machine.Tests
end

section
/-!
PROOFS. The deflate decoder: the effect of the instruction it reads, and that everything it does keeps `Inflate.ok`.
-/

namespace Sys2Proof.Machine

/-! ## The instruction a payload holds next -/

/-- What a DFL instruction does to the inflate state; no other instruction does anything to it. -/
def inflateEffect : Instr → Option (Inflate → Except InflateFail Inflate)
  | .dflStored final => some (Inflate.storedBlock final)
  | .dflFixed final => some fun z => .ok (z.fixedBlock final)
  | .dflDynamic final => some (Inflate.dynamicBlock final)
  | .dflBtype3 _ => some fun _ => .error .btype
  | .dflLit sym => some fun z => .ok (z.emit [sym])
  | .dflEob => some fun z => .ok z.endBlock
  | .dflLen sym => some (Inflate.lengthSymbol sym.toNat)
  | .dflLenRsv _ => some fun _ => .error .badLenSym
  | .dflDist sym => some (Inflate.distanceSymbol sym.toNat)
  | .dflDistRsv _ => some fun _ => .error .badDistSym
  | .dflClLen sym => some (Inflate.addLengths [sym.toNat])
  | .dflClRep16 => some Inflate.repeatLast
  | .dflClRep17 => some (Inflate.repeatZero 3 3)
  | .dflClRep18 => some (Inflate.repeatZero 11 7)
  | _ => none

theorem exec_eq_onInflate {i : Instr} {f : Inflate → Except InflateFail Inflate} (h : inflateEffect i = some f)
    (s : State) : exec i s = s.onInflate (formatOf i) f := by
  cases i <;> cases h <;> rfl

/-- `i` is a DFL instruction that is read in format `ctx`. -/
def ReadsDeflate (ctx : Format) (i : Instr) : Prop := formatOf i = ctx ∧ ∃ f, inflateEffect i = some f

theorem readsDeflate_decodeDflBlock (v : BitVec 3) : ReadsDeflate .dflBlock (decodeDflBlock v) := by
  unfold decodeDflBlock
  dsimp only
  split_ifs <;> exact ⟨rfl, _, rfl⟩

theorem readsDeflate_of_decodeClSym {n : Nat} {i : Instr} (h : decodeClSym n = .ok i) : ReadsDeflate .symCl i := by
  unfold decodeClSym at h
  split_ifs at h <;> cases h <;> exact ⟨rfl, _, rfl⟩

theorem readsDeflate_of_decodeLitSym {n : Nat} {i : Instr} (h : decodeLitSym n = .ok i) : ReadsDeflate .symLit i := by
  unfold decodeLitSym at h
  split_ifs at h <;> cases h <;> exact ⟨rfl, _, rfl⟩

theorem readsDeflate_of_decodeDistSym {n : Nat} {i : Instr} (h : decodeDistSym n = .ok i) :
    ReadsDeflate .symDist i := by
  unfold decodeDistSym at h
  split_ifs at h <;> cases h <;> exact ⟨rfl, _, rfl⟩

/-- The next symbol by the code `T` as an instruction of its alphabet. -/
def readSymbol (T : HuffCode) (dec : Nat → Except DecodeError Instr) (z : Inflate) : Option (Instr × Inflate) :=
  match T.decode z.br with
  | .ok (v, r) => (dec v).toOption.map (fun i => (i, z.setReader r))
  | .error _ => none

/-- A symbol read is an instruction of its alphabet, with the reader behind its code. -/
theorem readSymbol_eq_some {T : HuffCode} {dec : Nat → Except DecodeError Instr} {z z' : Inflate} {i : Instr}
    (h : readSymbol T dec z = some (i, z')) :
    ∃ v r, dec v = .ok i ∧ z' = z.setReader r ∧ (z.br.t < 8 → r.t < 8) := by
  unfold readSymbol at h
  split at h
  · rename_i v r hr
    cases hd : dec v with
    | error e => rw [hd] at h; cases h
    | ok j =>
      rw [hd] at h
      cases h
      exact ⟨v, r, hd, rfl, fun ht => (decodeFrom_eq_ok hr ht).2.1⟩
  · cases h

theorem bits_offset {n v : Nat} {r r' : BitReader} (h : r.bits n = .ok (v, r')) (ht : r.t < 8) : r'.t < 8 := by
  obtain ⟨-, -, h', -⟩ := bits_eq_ok h ht
  exact h'

/-- What is fetched from a payload is a DFL instruction in its format, and the bit reader alone has moved. -/
theorem Inflate.fetch_eq_some {z z' : Inflate} {i : Instr} (h : z.fetch = some (i, z')) :
    (∃ ctx, z.context = some ctx ∧ ReadsDeflate ctx i) ∧ ∃ r, z' = z.setReader r ∧ (z.br.t < 8 → r.t < 8) := by
  obtain ⟨br, out, adler, final, mode⟩ := z
  cases mode with
  | header =>
    simp only [Inflate.fetch] at h
    split at h
    · rename_i v r hr
      cases h
      exact ⟨⟨_, rfl, readsDeflate_decodeDflBlock _⟩, r, rfl, bits_offset hr⟩
    · cases h
  | lengths nlit ndist clt lens =>
    change (if lens.length < nlit + ndist then readSymbol clt decodeClSym _ else none) = _ at h
    split at h
    · obtain ⟨v, r, hi, rfl, ht⟩ := readSymbol_eq_some h
      exact ⟨⟨_, rfl, readsDeflate_of_decodeClSym hi⟩, r, rfl, ht⟩
    · cases h
  | body lit dist =>
    obtain ⟨v, r, hi, rfl, ht⟩ := readSymbol_eq_some (T := lit) (dec := decodeLitSym) h
    exact ⟨⟨_, rfl, readsDeflate_of_decodeLitSym hi⟩, r, rfl, ht⟩
  | distance lit dist len =>
    obtain ⟨v, r, hi, rfl, ht⟩ := readSymbol_eq_some (T := dist) (dec := decodeDistSym) h
    exact ⟨⟨_, rfl, readsDeflate_of_decodeDistSym hi⟩, r, rfl, ht⟩
  | trailer => cases h

/-! ## What keeps `Inflate.ok` -/

theorem Inflate.ok_begin (p : Bytes) : (Inflate.begin p).ok :=
  ⟨Nat.zero_lt_succ 7, rfl, trivial⟩

theorem Inflate.ok.setReader {z : Inflate} (h : z.ok) {r : BitReader} (ht : r.t < 8) : (z.setReader r).ok :=
  ⟨ht, h.2.1, h.2.2⟩

theorem Inflate.ok.setMode {z : Inflate} (h : z.ok) {m : InflateMode} (hm : m.ok) : (z.setMode m).ok :=
  ⟨h.1, h.2.1, hm⟩

theorem Inflate.ok.emit {z : Inflate} (h : z.ok) (d : Bytes) : (z.emit d).ok := ⟨h.1, emit_adler h.2.1 d, h.2.2⟩

theorem Inflate.ok.endBlock {z : Inflate} (h : z.ok) : z.endBlock.ok := by
  refine ⟨h.1, h.2.1, ?_⟩
  unfold Inflate.endBlock
  dsimp only
  split <;> trivial

theorem align_offset (r : BitReader) : r.align.t = 0 := by rw [align_eq]

theorem bytes_offset {n : Nat} {r r' : BitReader} {d : Bytes} (h : r.bytes n = .ok (d, r')) : r'.t = r.t := by
  unfold BitReader.bytes at h
  split at h <;> cases h
  rfl

theorem readClLengths_offset {order cl cl' : List Nat} {r r' : BitReader}
    (h : readClLengths order cl r = .ok (cl', r')) (ht : r.t < 8) : r'.t < 8 := by
  induction order generalizing cl r with
  | nil => cases h; exact ht
  | cons i order ih =>
    obtain ⟨⟨v, r1⟩, hv, h⟩ := bind_eq_ok.1 h
    exact ih h (bits_offset hv ht)

theorem Inflate.ok.storedBlock {final : Bool} {z z' : Inflate} (h : z.ok) (hz : z.storedBlock final = .ok z') :
    z'.ok := by
  obtain ⟨⟨hd, r1⟩, h1, hz⟩ := bind_eq_ok.1 hz
  dsimp only at hz
  split at hz
  · cases hz
  · obtain ⟨⟨d, r2⟩, h2, hz⟩ := bind_eq_ok.1 hz
    cases hz
    have ht : r2.t = 0 := by rw [bytes_offset h2, bytes_offset h1, align_offset]
    have hf : ({ z with final := final } : Inflate).ok := h
    exact ((hf.setReader (r := r2) (by omega)).emit d).endBlock

theorem Inflate.ok.dynamicBlock {final : Bool} {z z' : Inflate} (h : z.ok) (hz : z.dynamicBlock final = .ok z') :
    z'.ok := by
  obtain ⟨⟨hlit, r1⟩, h1, hz⟩ := bind_eq_ok.1 hz
  obtain ⟨⟨hdist, r2⟩, h2, hz⟩ := bind_eq_ok.1 hz
  obtain ⟨⟨hclen, r3⟩, h3, hz⟩ := bind_eq_ok.1 hz
  dsimp only at h2 h3 hz
  split at hz
  · cases hz
  · obtain ⟨⟨cl, r4⟩, h4, hz⟩ := bind_eq_ok.1 hz
    obtain ⟨clt, -, hz⟩ := bind_eq_ok.1 hz
    cases hz
    have t1 := bits_offset h1 h.1
    have t2 := bits_offset h2 t1
    have t3 := bits_offset h3 t2
    exact ⟨readClLengths_offset h4 t3, h.2.1, by simp only [InflateMode.ok, List.length_nil]; omega⟩

theorem Inflate.ok.addLengths {more : List Nat} {z z' : Inflate} (h : z.ok) (hz : z.addLengths more = .ok z') :
    z'.ok := by
  unfold Inflate.addLengths at hz
  split at hz
  · rename_i nlit ndist clt lens hm
    split at hz <;> cases hz
    obtain ⟨ht, hadler, hmode⟩ := h
    rw [hm] at hmode
    obtain ⟨hlit, hlit', hdist, hdist', -⟩ := hmode
    exact ⟨ht, hadler, hlit, hlit', hdist, hdist', by omega⟩
  · cases hz

theorem Inflate.ok.repeatLast {z z' : Inflate} (h : z.ok) (hz : z.repeatLast = .ok z') : z'.ok := by
  unfold Inflate.repeatLast at hz
  split at hz
  · split at hz
    · cases hz
    · obtain ⟨⟨k, r⟩, hk, hz⟩ := bind_eq_ok.1 hz
      exact (h.setReader (bits_offset hk h.1)).addLengths hz
  · cases hz

theorem Inflate.ok.repeatZero {base ext : Nat} {z z' : Inflate} (h : z.ok) (hz : z.repeatZero base ext = .ok z') :
    z'.ok := by
  obtain ⟨⟨k, r⟩, hk, hz⟩ := bind_eq_ok.1 hz
  exact (h.setReader (bits_offset hk h.1)).addLengths hz

/-- A length symbol and its extra bits stand for a length of 3 to 258 (43_inflate.md R209). -/
theorem lengthTable_range : ∀ p ∈ lengthTable, 3 ≤ p.1 ∧ p.1 + 2 ^ p.2 ≤ 259 := by decide

theorem Inflate.ok.lengthSymbol {sym : Nat} {z z' : Inflate} (h : z.ok) (hz : z.lengthSymbol sym = .ok z') :
    z'.ok := by
  unfold Inflate.lengthSymbol at hz
  split at hz
  · rename_i lit dist base ext _ hs
    obtain ⟨⟨e, r⟩, he, hz⟩ := bind_eq_ok.1 hz
    cases hz
    obtain ⟨hv, -, ht, -⟩ := bits_eq_ok he h.1
    have hmem : (base, ext) ∈ lengthTable := by
      split at hs
      · exact List.mem_of_getElem? hs
      · cases hs
    have hr := lengthTable_range _ hmem
    dsimp only at hr
    exact (h.setReader ht).setMode ⟨by omega, by omega⟩
  · cases hz

theorem Inflate.ok.distanceSymbol {sym : Nat} {z z' : Inflate} (h : z.ok) (hz : z.distanceSymbol sym = .ok z') :
    z'.ok := by
  unfold Inflate.distanceSymbol at hz
  split at hz
  · obtain ⟨⟨e, r⟩, he, hz⟩ := bind_eq_ok.1 hz
    dsimp only at hz
    split at hz <;> cases hz
    exact ((h.setReader (bits_offset he h.1)).emit _).setMode trivial
  · cases hz

theorem Inflate.ok.buildTables {nlit ndist : Nat} {lens : List Nat} {z z' : Inflate} (h : z.ok)
    (hz : z.buildTables nlit ndist lens = .ok z') : z'.ok := by
  unfold Inflate.buildTables at hz
  split at hz
  · cases hz
  · obtain ⟨lit, -, hz⟩ := bind_eq_ok.1 hz
    obtain ⟨dist, -, hz⟩ := bind_eq_ok.1 hz
    cases hz
    exact h.setMode trivial

/-- Every header and symbol of a payload keeps the inflate state sound (10_state.md R47). -/
theorem Inflate.ok.effect {i : Instr} {f : Inflate → Except InflateFail Inflate} (hi : inflateEffect i = some f)
    {z z' : Inflate} (h : z.ok) (hz : f z = .ok z') : z'.ok := by
  cases i <;> cases hi
  case dflStored => exact h.storedBlock hz
  case dflFixed => cases hz; exact ⟨h.1, h.2.1, trivial⟩
  case dflDynamic => exact h.dynamicBlock hz
  case dflBtype3 => cases hz
  case dflLit => cases hz; exact h.emit _
  case dflEob => cases hz; exact h.endBlock
  case dflLen => exact h.lengthSymbol hz
  case dflLenRsv => cases hz
  case dflDist => exact h.distanceSymbol hz
  case dflDistRsv => cases hz
  case dflClLen => exact h.addLengths hz
  case dflClRep16 => exact h.repeatLast hz
  case dflClRep17 => exact h.repeatZero hz
  case dflClRep18 => exact h.repeatZero hz

end Sys2Proof.Machine
end

section
/-!
PROOFS. What one step of the engine can do, said once: `State.EngineMove` has one constructor per kind of step, with its guards,
and `engineStep_move` says that every engine step is one of them.
-/

namespace Sys2Proof.Machine

/-- The kinds of engine steps, by the unit at work (20_memory.md R70 and the sections of the units). -/
inductive State.EngineMove (s : State) : State → Prop where
  /-- IDLE: nothing (60_exceptions.md R382) -/
  | rest (he : s.engine = .idle) : s.EngineMove s
  /-- the configuration check fails (47_host_operations.md R344) -/
  | configError (he : s.engine = .launched) (hc : s.configOk s.regs.op = false) : s.EngineMove s.cfgError
  /-- an operation without a body (R345) -/
  | noBody (he : s.engine = .launched) : s.EngineMove s.complete
  | beginDecode (he : s.engine = .launched) (hd : s.decoding) : s.EngineMove s.beginDecode
  | beginRender (he : s.engine = .launched) (hr : s.rendering) : s.EngineMove s.beginRender
  | beginG5 (he : s.engine = .launched) (hop : s.regs.op = 4) (hc : s.configOk 4 = true) : s.EngineMove s.beginG5
  /-- FRAME (44_framer.md R242, R243) -/
  | frame (fpos : Nat) (len : Word) (he : s.engine = .framing fpos) (hl : 4 ≤ s.streamLeft fpos) :
      s.EngineMove (((s.raiseIf (decide (s.streamLeft (fpos + 4) < len.toNat)) .trunc).count Counters.incBlocks).setEngine
        (.resolving (fpos + 4 + s.frameLength len fpos) (s.inBytes (fpos + 4) (s.frameLength len fpos))))
  | endOfStream (fpos : Nat) (he : s.engine = .framing fpos) (hl : s.streamLeft fpos < 4) :
      s.EngineMove (s.endOfStream fpos)
  | beginInflate (fpos : Nat) (p : Bytes) (he : s.engine = .resolving fpos p) : s.EngineMove (s.beginInflate fpos p)
  | shortPayload (fpos : Nat) (p : Bytes) (he : s.engine = .resolving fpos p) : s.EngineMove (s.skipShort fpos)
  /-- PAY.G5 (42_resolver.md R175) -/
  | beginG5Block (fpos : Nat) (p : Bytes) (he : s.engine = .resolving fpos p) (hp : 6 ≤ p.length) :
      s.EngineMove (s.setEngine
        (.g5 (.block fpos (slice p 0 6)) (G5Run.begin (slice p 6 p.length) (rowCountOf p * s.bpr))))
  | rawPayload (fpos : Nat) (p : Bytes) (he : s.engine = .resolving fpos p) (hp : 6 ≤ p.length) :
      s.EngineMove ((s.count Counters.incRaw).setEngine (.dispatching fpos p))
  | g5Command (job : G5Job) (g : G5Run) (he : s.engine = .g5 job g) (hr : g.running = true) :
      s.EngineMove (s.setEngine (.g5 job g.command))
  /-- the end of the G5 operation (47_host_operations.md R349) -/
  | g5Store (g : G5Run) (he : s.engine = .g5 .standalone g) (hr : g.running = false)
      (hle : g.out.length ≤ s.caps.pbCap) : s.EngineMove ((s.recordG5 g).setPbBytes 0 g.out).complete
  /-- the end of a G5 block (42_resolver.md R175) -/
  | g5Block (fpos : Nat) (header : Bytes) (g : G5Run) (he : s.engine = .g5 (.block fpos header) g)
      (hr : g.running = false) :
      s.EngineMove (((s.recordG5 g).count Counters.incG5).setEngine (.dispatching fpos (header ++ g.out)))
  /-- a block header or a symbol that does not fail (43_inflate.md R191, R206) -/
  | inflateInstr (fpos : Nat) (z z₁ z₂ : Inflate) (i : Instr) (f : Inflate → Except InflateFail Inflate)
      (he : s.engine = .inflating fpos z) (hf : z.fetch = some (i, z₁)) (hi : inflateEffect i = some f)
      (hz : f z₁ = .ok z₂) : s.EngineMove (s.setEngine (.inflating fpos z₂))
  /-- the code lengths are complete (43_inflate.md R204, R205) -/
  | inflateTables (fpos : Nat) (z z' : Inflate) (nlit ndist : Nat) (clt : HuffCode) (lens : List Nat)
      (he : s.engine = .inflating fpos z) (hm : z.mode = .lengths nlit ndist clt lens) (hl : nlit + ndist ≤ lens.length)
      (hz : z.buildTables nlit ndist lens = .ok z') :
      s.EngineMove (s.setEngine (.inflating fpos z'))
  | inflateFailed (fpos : Nat) (z : Inflate) (he : s.engine = .inflating fpos z) : s.EngineMove (s.inflateFailed fpos)
  /-- the trailer is right (43_inflate.md R215) -/
  | inflated (fpos : Nat) (z : Inflate) (d : Bytes) (he : s.engine = .inflating fpos z) (hm : z.mode = .trailer)
      (hz : z.checkTrailer = .ok d) :
      s.EngineMove ((s.count Counters.incZlib).setEngine (.dispatching fpos d))
  | shortBlock (fpos : Nat) (d : Bytes) (he : s.engine = .dispatching fpos d) (hd : d.length < 6) :
      s.EngineMove (s.skipShort fpos)
  | assembled (fpos : Nat) (d : Bytes) (u : State) (he : s.engine = .dispatching fpos d) (hd : 6 ≤ d.length)
      (hu : s.assemble d = .next u) : s.EngineMove (u.setEngine (.framing fpos))
  /-- a pixel, with the event of a missing key or index (46_unpack_render.md R290, R295, R298) -/
  | pixel (x y : Nat) (work : Memory 24) (c : Rgb) (u : State) (he : s.engine = .drawing x y work)
      (hx : x < s.we) (hy : y < s.he) (hu : u = s ∨ u = s.raise .keymiss ∨ u = s.raise .idxoor) :
      s.EngineMove (u.drawPixel x y work c)
  | gridDone (x y : Nat) (work : Memory 24) (he : s.engine = .drawing x y work) (hxy : ¬ (x < s.we ∧ y < s.he)) :
      s.EngineMove (s.setEngine (.rotating work))
  /-- ROT0 to ROT3 (46_unpack_render.md R299–R304) -/
  | image (work : Memory 24) (src : Nat → Nat → Nat × Nat) (he : s.engine = .rotating work)
      (hle : (s.imageWords src work).length ≤ s.caps.imgCap) :
      s.EngineMove (s.setImgWords 0 (s.imageWords src work)).complete

/-! ## The instructions of each unit -/

theorem runOperation_move {op : BitVec 3} {body : State → State} {s t : State}
    (hbody : s.engine = .launched → s.regs.op = op → s.configOk op = true → s.EngineMove (body s))
    (h : s.runOperation op body = .next t) : s.EngineMove t := by
  obtain ⟨he, hop, rfl⟩ := runOperation_eq_next.1 h
  cases hc : s.configOk op with
  | true => exact hbody he hop hc
  | false => exact .configError he (hop ▸ hc)

theorem launched_move {s t : State} (h : exec (decodeOp s.regs.op) s = .next t) : s.EngineMove t := by
  unfold decodeOp at h
  split at h
  · exact runOperation_move (fun he _ _ => .noBody he) h
  · exact runOperation_move (fun he hop hc => .beginDecode he ⟨.inl hop, hop ▸ hc⟩) h
  · exact runOperation_move (fun he hop hc => .beginRender he ⟨.inl hop, hop ▸ hc⟩) h
  · exact runOperation_move (fun he hop hc => .beginDecode he ⟨.inr hop, hop ▸ hc⟩) h
  · exact runOperation_move (fun he hop hc => .beginG5 he hop hc) h
  · exact runOperation_move (fun he _ _ => .noBody he) h
  · exact runOperation_move (fun he _ _ => .noBody he) h
  · exact runOperation_move (fun he _ _ => .noBody he) h

theorem execFrame_move {len : Word} {s t : State} (h : execFrame len s = .next t) : s.EngineMove t := by
  unfold execFrame at h
  split at h
  · rename_i fpos he
    split_ifs at h with hl hc
    cases h
    exact .frame fpos len he (Nat.le_of_not_lt hl)
  · cases h

theorem payload_move {fpos : Nat} {p : Bytes} {s t : State} (he : s.engine = .resolving fpos p)
    (h : exec (decodePayload p) s = .next t) : s.EngineMove t := by
  have answer {f : Nat → Bytes → State} (h : s.onPayload f = .next t) : t = f fpos p := by
    obtain ⟨_, _, he', rfl⟩ := onPayload_eq_next.1 h
    cases he.symm.trans he'
    rfl
  unfold decodePayload at h
  split_ifs at h with h1 h2 h3 h6 hg
  · exact answer h ▸ .beginInflate fpos p he
  · exact answer h ▸ .beginInflate fpos p he
  · exact answer h ▸ .beginInflate fpos p he
  · exact answer h ▸ .shortPayload fpos p he
  · exact answer h ▸ .beginG5Block fpos p he (Nat.le_of_not_lt h6)
  · exact answer h ▸ .rawPayload fpos p he (Nat.le_of_not_lt h6)

/-- The command at the cursor of a running decode means `G5Run.command` (41_g5.md R141). -/
theorem exec_decodeG5 {job : G5Job} {g : G5Run} {s : State} (he : s.engine = .g5 job g) (hr : g.running = true) :
    exec (decodeG5 (byteAt g.src g.gpos)) s = .next (s.setEngine (.g5 job g.command)) := by
  have answer (f : G5Run → G5Run) : s.onG5 f = .next (s.setEngine (.g5 job (f g))) :=
    onG5_eq_next.2 ⟨job, g, he, hr, rfl⟩
  unfold G5Run.command decodeG5
  split_ifs
  · exact answer _
  · exact answer _
  · exact answer _

theorem inflate_move {fpos : Nat} {z z₁ : Inflate} {i : Instr} {s t : State} (he : s.engine = .inflating fpos z)
    (hf : z.fetch = some (i, z₁)) (h : exec i (s.setEngine (.inflating fpos z₁)) = .next t) : s.EngineMove t := by
  obtain ⟨⟨_, _, _, f, hi⟩, _⟩ := Inflate.fetch_eq_some hf
  rw [exec_eq_onInflate hi] at h
  obtain ⟨_, _, he', -, ⟨z₂, hz, rfl⟩ | ⟨_, _, rfl⟩⟩ := onInflate_eq_next.1 h
  · cases he'
    exact .inflateInstr fpos z z₁ z₂ i f he hf hi hz
  · cases he'
    exact .inflateFailed fpos z he

theorem raise_raise (e : Event) (s : State) : (s.raise e).raise e = s.raise e := by
  simp [State.raise, BitVec.or_assoc]

/-- A key lookup changes nothing but the KEYMISS event (46_unpack_render.md R294, R295). -/
theorem lookupTag_state (g : BitVec 2) (s : State) : (s.lookupTag g).2 = s ∨ (s.lookupTag g).2 = s.raise .keymiss := by
  unfold State.lookupTag
  split
  · exact .inl rfl
  · exact .inr rfl

theorem lookupKey_state (k : ColourKey) (s : State) : (s.lookupKey k).2 = s ∨ (s.lookupKey k).2 = s.raise .keymiss := by
  cases k with
  | black => exact lookupTag_state _ s
  | white => exact lookupTag_state _ s
  | colour =>
    unfold State.lookupKey
    dsimp only
    split
    · exact .inl rfl
    · have := lookupTag_state tagWhite (s.raise .keymiss)
      rw [raise_raise, or_self] at this
      exact .inr this

theorem execPlaneRead_move {bpp : BitVec 4} {s t : State} (h : execPlaneRead bpp s = .next t) : s.EngineMove t := by
  obtain ⟨x, y, work, he, hx, hy, h⟩ := onPixel_eq_next.1 h
  obtain ⟨-, h⟩ | ⟨-, h⟩ := ite_eq_iff.1 h
  · cases h
  · cases h
    exact .pixel x y work _ _ he hx hy ((lookupKey_state _ s).imp_right .inl)

theorem execIndexExtract_move {bpp : BitVec 4} {s t : State} (h : execIndexExtract bpp s = .next t) :
    s.EngineMove t := by
  obtain ⟨x, y, work, he, hx, hy, h⟩ := onPixel_eq_next.1 h
  dsimp only at h
  split_ifs at h
  · cases h
    exact .pixel x y work _ _ he hx hy (.inl rfl)
  · cases h
    exact .pixel x y work _ _ he hx hy (.inr (.inr rfl))

theorem pixel_move {bpp : BitVec 4} {i : Instr} {s t : State} (hi : decodePixel bpp = .ok i)
    (h : exec i s = .next t) : s.EngineMove t := by
  unfold decodePixel at hi
  split_ifs at hi
  · cases hi
    exact execPlaneRead_move h
  · cases hi
    exact execIndexExtract_move h

theorem rotate_move {src : Nat → Nat → Nat × Nat} {s t : State} (h : s.rotate src = .next t) : s.EngineMove t := by
  obtain ⟨work, he, hle, rfl⟩ := rotate_eq_next.1 h
  exact .image work src he hle

theorem rotation_move {rot : BitVec 2} {bpp : BitVec 4} {s t : State} (h : exec (decodeRotate rot bpp) s = .next t) :
    s.EngineMove t := by
  unfold decodeRotate at h
  split at h
  · exact rotate_move h
  · exact rotate_move h
  · exact rotate_move h
  · exact rotate_move h

/-! ## The step -/

theorem fetched_move {i : Instr} {s u t : State} (hf : s.fetch = some (i, u)) (h : exec i u = .next t) :
    s.EngineMove t := by
  unfold State.fetch at hf
  cases he : s.engine with
  | idle => rw [he] at hf; cases hf
  | launched =>
    rw [he] at hf
    cases hf
    exact launched_move h
  | framing fpos =>
    rw [he] at hf
    dsimp only at hf
    split_ifs at hf
    cases hf
    exact execFrame_move h
  | resolving fpos p =>
    rw [he] at hf
    cases hf
    exact payload_move he h
  | g5 job g =>
    rw [he] at hf
    dsimp only at hf
    split_ifs at hf with hr
    cases hf
    rw [exec_decodeG5 he hr] at h
    cases h
    exact .g5Command job g he hr
  | inflating fpos z =>
    rw [he] at hf
    obtain ⟨⟨j, z₁⟩, hz, hu⟩ := Option.map_eq_some_iff.1 hf
    cases hu
    exact inflate_move he hz h
  | dispatching fpos d => rw [he] at hf; cases hf
  | drawing x y work =>
    rw [he] at hf
    dsimp only at hf
    split_ifs at hf
    cases hd : decodePixel s.regs.bpp with
    | error e => rw [hd] at hf; cases hf
    | ok j =>
      rw [hd] at hf
      cases hf
      exact pixel_move hd h
  | rotating work =>
    rw [he] at hf
    cases hf
    exact rotation_move h

theorem finishG5_move {job : G5Job} {g : G5Run} {s t : State} (he : s.engine = .g5 job g) (hr : g.running = false)
    (h : s.finishG5 job g = .next t) : s.EngineMove t := by
  cases job with
  | standalone =>
    obtain ⟨u, hu, h⟩ := andThen_eq_next.1 h
    obtain ⟨hle, rfl⟩ := enginePbWrite_eq_next.1 hu
    cases h
    exact .g5Store g he hr (by simpa [State.recordG5] using hle)
  | block fpos header =>
    cases h
    exact .g5Block fpos header g he hr

theorem inflateTau_move {fpos : Nat} {z : Inflate} {s : State} (he : s.engine = .inflating fpos z) :
    s.EngineMove (s.inflateTau fpos z) := by
  unfold State.inflateTau
  split
  · rename_i hm
    split
    · exact .inflateFailed fpos z he
    · rename_i hl
      split
      · exact .inflateTables fpos z _ _ _ _ _ he hm (Nat.le_of_not_lt hl) ‹_›
      · exact .inflateFailed fpos z he
  · rename_i hm
    split
    · exact .inflated fpos z _ he hm ‹_›
    · exact .inflateFailed fpos z he
  · exact .inflateFailed fpos z he

theorem dispatch_move {fpos : Nat} {d : Bytes} {s t : State} (he : s.engine = .dispatching fpos d)
    (h : s.dispatch fpos d = .next t) : s.EngineMove t := by
  unfold State.dispatch at h
  split_ifs at h with hd
  · cases h
    exact .shortBlock fpos d he hd
  · obtain ⟨u, hu, h⟩ := andThen_eq_next.1 h
    cases h
    exact .assembled fpos d u he (Nat.le_of_not_lt hd) hu

theorem tau_move {s t : State} (hf : s.fetch = none) (h : s.tau = .next t) : s.EngineMove t := by
  unfold State.tau at h
  cases he : s.engine with
  | idle =>
    rw [he] at h
    cases h
    exact .rest he
  | launched => simp [State.fetch, he] at hf
  | framing fpos =>
    rw [he] at h
    cases h
    exact .endOfStream fpos he (by simpa [State.fetch, he] using hf)
  | resolving fpos p => simp [State.fetch, he] at hf
  | g5 job g =>
    rw [he] at h
    exact finishG5_move he (by simpa [State.fetch, he] using hf) h
  | inflating fpos z =>
    rw [he] at h
    cases h
    exact inflateTau_move he
  | dispatching fpos d =>
    rw [he] at h
    exact dispatch_move he h
  | drawing x y work =>
    rw [he] at h
    dsimp only at h
    split_ifs at h with hxy
    cases h
    exact .gridDone x y work he hxy
  | rotating work => simp [State.fetch, he] at hf

/-- Every step of the engine is one of the moves. -/
theorem engineStep_move {s t : State} (h : engineStep s = .next t) : s.EngineMove t := by
  unfold engineStep at h
  split at h
  · exact fetched_move ‹_› h
  · exact tau_move ‹_› h

end Sys2Proof.Machine
end

section
/-!
PROOFS. What the engine only reads (10_state.md R41, R49): no move of the engine writes it (O56).
-/

namespace Sys2Proof.Machine

/-! ## What the engine only reads -/

/-- The fields of a state the engine only reads. -/
def State.readOnly (s : State) : Regs × Caps × Memory 26 × List Host.Cell × List HostInput × List HostResponse × Nat :=
  (s.regs, s.caps, s.ct, s.inMem, s.inputs, s.responses, s.freeIx)

section
variable (s : State)

@[simp] theorem State.raise_readOnly (e : Event) : (s.raise e).readOnly = s.readOnly := rfl
@[simp] theorem State.raiseIf_readOnly (c : Bool) (e : Event) : (s.raiseIf c e).readOnly = s.readOnly := by
  cases c <;> rfl
@[simp] theorem State.count_readOnly (f : Counters → Counters) : (s.count f).readOnly = s.readOnly := rfl
@[simp] theorem State.setEngine_readOnly (e : Engine) : (s.setEngine e).readOnly = s.readOnly := rfl
@[simp] theorem State.complete_readOnly : s.complete.readOnly = s.readOnly := rfl
@[simp] theorem State.cfgError_readOnly : s.cfgError.readOnly = s.readOnly := rfl
@[simp] theorem State.setG5Result_readOnly (n k : Nat) : (s.setG5Result n k).readOnly = s.readOnly := rfl
@[simp] theorem State.setNextPlane_readOnly (p : BitVec 1) : (s.setNextPlane p).readOnly = s.readOnly := rfl
@[simp] theorem State.setPbBytes_readOnly (a : Nat) (vs : Bytes) : (s.setPbBytes a vs).readOnly = s.readOnly := rfl
@[simp] theorem State.zeroPb_readOnly (a n : Nat) : (s.zeroPb a n).readOnly = s.readOnly := rfl
@[simp] theorem State.setImgWords_readOnly (a : Nat) (vs : List Word) : (s.setImgWords a vs).readOnly = s.readOnly := rfl

@[simp] theorem State.endOfStream_readOnly (fpos : Nat) : (s.endOfStream fpos).readOnly = s.readOnly := by
  unfold State.endOfStream
  dsimp only
  split <;> simp [State.beginRender]

@[simp] theorem State.drawPixel_readOnly (x y : Nat) (work : Memory 24) (c : Rgb) :
    (s.drawPixel x y work c).readOnly = s.readOnly := by
  unfold State.drawPixel
  dsimp only
  split <;> rfl

end

/-- Assembly, where it answers a state: the clamp events, NEXT_PLANE as it was, and, where any bytes are to be written, those
bytes inside PB and one more block applied (45_assembler.md R260–R270; the parity fallback has no run, R263). -/
theorem assemble_cases {d : Bytes} {s u : State} (h : s.assemble d = .next u) :
    let t := (s.clampEvents d).setNextPlane s.nextPlane
    let vs := slice d 6 (6 + s.writeLength d)
    (s.writeLength d = 0 ∧ u = t) ∨
      (s.writeLength d ≠ 0 ∧ s.writeBase d + vs.length ≤ t.caps.pbCap ∧
        u = (t.setPbBytes (s.writeBase d) vs).count Counters.incApplied) := by
  have hplane : (s.choosePlane d).2 = s.nextPlane := by
    have hflag : flagPlaneOf d < 2 := ((byteAt d 5).extractLsb' 0 1).isLt
    unfold State.choosePlane
    rw [if_pos hflag]
    split <;> rfl
  unfold State.assemble at h
  rw [hplane] at h
  dsimp only at h
  split_ifs at h with hn
  · cases h
    exact .inl ⟨hn, rfl⟩
  · obtain ⟨v, hv, h⟩ := andThen_eq_next.1 h
    obtain ⟨hle, rfl⟩ := enginePbWrite_eq_next.1 hv
    cases h
    exact .inr ⟨hn, hle, rfl⟩

theorem assemble_readOnly {d : Bytes} {s u : State} (h : s.assemble d = .next u) : u.readOnly = s.readOnly := by
  obtain ⟨-, rfl⟩ | ⟨-, -, rfl⟩ := assemble_cases h <;> simp [State.clampEvents]

theorem State.EngineMove.readOnly {s t : State} (m : s.EngineMove t) : t.readOnly = s.readOnly := by
  cases m with
  | frame => simp
  | endOfStream => simp
  | g5Store => simp [State.recordG5]
  | g5Block => simp [State.recordG5]
  | assembled _ _ _ _ _ hu => simpa using assemble_readOnly hu
  | pixel _ _ _ _ _ _ _ _ hu => obtain rfl | rfl | rfl := hu <;> simp
  | _ => rfl

theorem State.EngineMove.sameInputs {s t : State} (m : s.EngineMove t) : s.SameInputs t := by
  have h := m.readOnly
  simp only [State.readOnly, Prod.mk.injEq] at h
  obtain ⟨hregs, hcaps, hct, hin, -⟩ := h
  exact ⟨hregs, hcaps, hct, hin⟩

/-- Settles O56: whatever the engine does, it reads registers, capacities, colour table and IN and writes none of them. -/
theorem theEngineNeverWritesItsInputs : Obligations.TheEngineNeverWritesItsInputs := by
  intro s t h
  have hr := (engineStep_move h).readOnly
  simp only [State.readOnly, Prod.mk.injEq] at hr
  exact hr

end Sys2Proof.Machine
end

section
/-!
PROOFS. The invariant along every step (O54): what a working unit keeps of it, the engine's moves, the host's accesses.
-/

namespace Sys2Proof.Machine

/-! ## What every update of a working unit keeps -/

/-- The part of the invariant a BUSY engine keeps whatever its unit holds: the memories, STATUS with BUSY 1 and DONE 0, and
NEXT_PLANE. -/
structure State.WorkOk (s : State) : Prop where
  memories  : s.MemoriesOk
  reserved  : s.status &&& statusReserved = 0
  busyBit   : s.status.getLsbD 0 = true
  doneBit   : s.status.getLsbD 1 = false
  nextPlane : s.nextPlane = 0

section
variable {s : State}

theorem State.busy_of_ne_idle (he : s.engine ≠ .idle) : s.busy = true := decide_eq_true he

theorem State.Inv.workOk (h : s.Inv) (he : s.engine ≠ .idle) : s.WorkOk :=
  have hb := State.busy_of_ne_idle he
  ⟨h.memories, h.reserved, h.busyFlag.trans hb, h.doneFlag hb, h.nextPlane⟩

/-- What the unit at work holds is in order. -/
theorem State.Inv.unit (h : s.Inv) {e : Engine} (he : s.engine = e) : (s.setEngine e).engineOk := by
  subst he
  exact h.engine

theorem State.WorkOk.raise (h : s.WorkOk) {e : Event} (he : e ≠ .g5fb) : (s.raise e).WorkOk :=
  ⟨h.memories.congr rfl rfl rfl rfl rfl, raise_reserved h.reserved he, (raise_busyBit e s).trans h.busyBit,
    (raise_doneBit e s).trans h.doneBit, h.nextPlane⟩

theorem State.WorkOk.raiseIf (h : s.WorkOk) {e : Event} (he : e ≠ .g5fb) (c : Bool) : (s.raiseIf c e).WorkOk := by
  cases c
  · exact h
  · exact h.raise he

theorem State.WorkOk.count (h : s.WorkOk) (f : Counters → Counters) : (s.count f).WorkOk :=
  ⟨h.memories.congr rfl rfl rfl rfl rfl, h.reserved, h.busyBit, h.doneBit, h.nextPlane⟩

theorem State.WorkOk.setEngine (h : s.WorkOk) (e : Engine) : (s.setEngine e).WorkOk :=
  ⟨h.memories.congr rfl rfl rfl rfl rfl, h.reserved, h.busyBit, h.doneBit, h.nextPlane⟩

theorem State.WorkOk.setG5Result (h : s.WorkOk) (n k : Nat) : (s.setG5Result n k).WorkOk :=
  ⟨h.memories.congr rfl rfl rfl rfl rfl, h.reserved, h.busyBit, h.doneBit, h.nextPlane⟩

theorem State.WorkOk.setNextPlane (h : s.WorkOk) {p : BitVec 1} (hp : p = 0) : (s.setNextPlane p).WorkOk :=
  ⟨h.memories.congr rfl rfl rfl rfl rfl, h.reserved, h.busyBit, h.doneBit, hp⟩

theorem State.WorkOk.setPbBytes (h : s.WorkOk) {a : Nat} {vs : Bytes} (ha : a + vs.length ≤ s.caps.pbCap) :
    (s.setPbBytes a vs).WorkOk :=
  ⟨h.memories.setPbBytes ha, h.reserved, h.busyBit, h.doneBit, h.nextPlane⟩

theorem State.WorkOk.zeroPb (h : s.WorkOk) (a n : Nat) : (s.zeroPb a n).WorkOk :=
  ⟨h.memories.zeroPb a n, h.reserved, h.busyBit, h.doneBit, h.nextPlane⟩

theorem State.WorkOk.setImgWords (h : s.WorkOk) {a : Nat} {vs : List Word} (ha : a + vs.length ≤ s.caps.imgCap) :
    (s.setImgWords a vs).WorkOk :=
  ⟨h.memories.setImgWords ha, h.reserved, h.busyBit, h.doneBit, h.nextPlane⟩

theorem State.WorkOk.recordG5 (h : s.WorkOk) (g : G5Run) : (s.recordG5 g).WorkOk :=
  (h.setG5Result _ _).raiseIf (by decide) _

theorem State.WorkOk.clampEvents (h : s.WorkOk) (d : Bytes) : (s.clampEvents d).WorkOk :=
  (h.raiseIf (by decide) _).raiseIf (by decide) _

theorem State.WorkOk.skipShort (h : s.WorkOk) (fpos : Nat) : (s.skipShort fpos).WorkOk :=
  ((h.count _).raise (by decide)).setEngine _

theorem State.WorkOk.inflateFailed (h : s.WorkOk) (fpos : Nat) : (s.inflateFailed fpos).WorkOk :=
  ((h.count _).raise (by decide)).setEngine _

theorem State.WorkOk.assemble (h : s.WorkOk) {d : Bytes} {u : State} (hu : s.assemble d = .next u) : u.WorkOk := by
  have ht := (h.clampEvents d).setNextPlane h.nextPlane
  obtain ⟨-, rfl⟩ | ⟨-, hle, rfl⟩ := assemble_cases hu
  · exact ht
  · exact (ht.setPbBytes hle).count _

theorem State.WorkOk.drawPixel (h : s.WorkOk) (x y : Nat) (work : Memory 24) (c : Rgb) :
    (s.drawPixel x y work c).WorkOk := by
  unfold State.drawPixel
  dsimp only
  split <;> exact h.setEngine _

theorem State.drawPixel_busy (s : State) (x y : Nat) (work : Memory 24) (c : Rgb) :
    (s.drawPixel x y work c).engine ≠ .idle := by
  unfold State.drawPixel
  dsimp only
  split <;> exact nofun

/-- A unit goes on: the next state has the invariant where the unit then holds what it should. -/
theorem State.Inv.continues {t : State} (h : s.Inv) (he : s.engine ≠ .idle) (hi : s.SameInputs t) (hw : t.WorkOk)
    (ht : t.engine ≠ .idle) (ho : t.engineOk) : t.Inv :=
  h.busyStep (State.busy_of_ne_idle he) (State.busy_of_ne_idle ht) hi hw.memories hw.reserved
    (hw.busyBit.trans (h.workOk he).busyBit.symm) (hw.doneBit.trans (h.workOk he).doneBit.symm) hw.nextPlane ho

/-- The operation ends. -/
theorem State.Inv.completes {t : State} (h : s.Inv) (hc : t.caps = s.caps) (hw : t.WorkOk) : t.complete.Inv :=
  h.completed hc hw.memories hw.reserved hw.nextPlane

end

/-! ## What the units hold -/

theorem framed_inside {fpos : Nat} {len : Word} {s : State} (hl : 4 ≤ s.streamLeft fpos) :
    fpos + 4 + s.frameLength len fpos ≤ s.regs.inLen.toNat := by
  simp only [State.frameLength, State.streamLeft] at *
  omega

theorem inBytes_length (s : State) (a n : Nat) : (s.inBytes a n).length = n := by simp [State.inBytes]

/-- A command never fills the output beyond its bound, and keeps source and bound (41_g5.md R146). -/
theorem command_keeps (g : G5Run) :
    g.command.src = g.src ∧ g.command.exp = g.exp ∧ (g.out.length ≤ g.exp → g.command.out.length ≤ g.exp) := by
  have hrun (v : Byte) (n : Nat) : g.out.length ≤ g.exp → (g.run v n).out.length ≤ g.exp := by
    simp only [G5Run.run, List.length_append, List.length_replicate]
    omega
  have hlit (n : Nat) : g.out.length ≤ g.exp → (g.literal n).out.length ≤ g.exp := by
    simp only [G5Run.literal, List.length_append, List.length_take]
    omega
  unfold G5Run.command
  split
  · exact ⟨rfl, rfl, hrun _ _⟩
  · exact ⟨rfl, rfl, hrun _ _⟩
  · exact ⟨rfl, rfl, hlit _⟩
  · exact ⟨rfl, rfl, id⟩

theorem State.g5Ok_command {job : G5Job} {g : G5Run} {s : State} (h : s.g5Ok job g) : s.g5Ok job g.command := by
  obtain ⟨hsrc, hexp, hout⟩ := command_keeps g
  obtain ⟨hle, hjob⟩ := h
  refine ⟨hexp ▸ hout hle, ?_⟩
  cases job <;> simpa only [hsrc, hexp] using hjob

/-- A rendering has a pixel to begin with: its configuration has no empty grid (47_host_operations.md R343). -/
theorem State.grid_pos {s : State} (h : s.rendering) : 0 < s.we ∧ 0 < s.he := by
  obtain ⟨hop, hc⟩ := h
  have hd : s.dimsOk = true := by
    rcases hop with hop | hop <;> rw [hop] at hc <;> simp_all [State.configOk]
  simp only [State.dimsOk, decide_eq_true_eq] at hd
  simp only [State.we, State.he]
  split <;> omega

theorem State.engineOk_beginRender {s : State} (h : s.rendering) : s.beginRender.engineOk :=
  ⟨h, ⟨Memory.wf_nil, by simp [Memory.below]⟩, .inl (State.grid_pos h)⟩

/-- After a pixel the unit stands at the next one, or behind the last row, with the pixel in the grid (46_unpack_render.md
R290). -/
theorem State.engineOk_drawPixel {x y : Nat} {work : Memory 24} {c : Rgb} {s : State} (h : s.rendering)
    (hg : s.gridOk work) (hx : x < s.we) (hy : y < s.he) : (s.drawPixel x y work c).engineOk := by
  have hk : s.workIndex x y + 1 ≤ s.we * s.he := by
    have := Nat.mul_le_mul_right s.we hy
    rw [Nat.succ_mul, Nat.mul_comm s.he] at this
    simp only [State.workIndex]
    omega
  have hg' : s.gridOk (Memory.write Config.white work (s.workIndex x y) [c]) :=
    ⟨Memory.wf_write hg.1 _ _, Memory.below_write hg.2 hk⟩
  unfold State.drawPixel
  dsimp only
  split
  · exact ⟨h, hg', .inl ⟨‹_›, hy⟩⟩
  · refine ⟨h, hg', ?_⟩
    rcases Nat.lt_or_eq_of_le (Nat.succ_le_of_lt hy) with hy' | hy'
    · exact .inl ⟨Nat.lt_of_le_of_lt (Nat.zero_le _) hx, hy'⟩
    · exact .inr ⟨rfl, hy'⟩

theorem slice_header_length {p : Bytes} (hp : 6 ≤ p.length) : (slice p 0 6).length = 6 := by
  simp [slice]; omega

theorem rowCountOf_slice_header (p : Bytes) : rowCountOf (slice p 0 6) = rowCountOf p := by
  have hb (i : Nat) (hi : i < 6) : byteAt (slice p 0 6) i = byteAt p i := by
    simp [slice, byteAt, hi]
  simp only [rowCountOf, u16le]
  rw [hb _ (by decide), hb _ (by decide)]

/-! ## The engine's moves -/

/-- The end of a stream leaves DECODE complete and DECODE_RENDER before its first pixel (47_host_operations.md R346, R348). -/
theorem State.Inv.endOfStream {fpos : Nat} {s : State} (h : s.Inv) (he : s.engine = .framing fpos)
    (hi : s.SameInputs (s.endOfStream fpos)) : (s.endOfStream fpos).Inv := by
  have hne : s.engine ≠ .idle := by simp [he]
  obtain ⟨⟨-, hc⟩, -⟩ : s.cursorOk fpos := h.unit he
  have hw := (h.workOk hne).raiseIf (e := .tail) (by decide) (decide (0 < s.streamLeft fpos))
  unfold State.endOfStream at hi ⊢
  dsimp only at hi ⊢
  split
  · rename_i hop
    rw [if_pos hop] at hi
    exact h.continues hne hi (hw.setEngine _) nofun (State.engineOk_beginRender (hi.rendering.2 ⟨.inr hop, hc⟩))
  · exact h.completes (by simp) hw

/-- In IDLE the engine does nothing (60_exceptions.md R382). -/
theorem State.EngineMove.eq_of_idle {s t : State} (m : s.EngineMove t) (he : s.engine = .idle) : t = s := by
  cases m <;> simp_all

/-- Every move of the engine keeps the invariant: the updates it is made of keep `WorkOk`, and the unit it ends in holds what
that unit keeps. -/
theorem State.EngineMove.inv {s t : State} (h : s.Inv) (m : s.EngineMove t) : t.Inv := by
  by_cases hidle : s.engine = .idle
  · exact m.eq_of_idle hidle ▸ h
  have hi := m.sameInputs
  have hw := h.workOk hidle
  cases m with
  | rest => exact h
  | configError => exact h.completes rfl (hw.raise (by decide))
  | noBody => exact h.completes rfl hw
  | beginDecode _ hd =>
    exact h.continues hidle hi (((hw.setNextPlane rfl).zeroPb _ _).setEngine _) nofun
      ((hi.cursorOk 0).2 ⟨hd, Nat.zero_le _⟩)
  | beginRender _ hr =>
    exact h.continues hidle hi (hw.setEngine _) nofun (State.engineOk_beginRender hr)
  | beginG5 _ hop hc =>
    exact h.continues hidle hi (hw.setEngine _) nofun ⟨Nat.zero_le _, hop, hc, rfl, rfl⟩
  | frame fpos len he hl =>
    obtain ⟨hd, -⟩ : s.cursorOk fpos := h.unit he
    refine h.continues hidle hi (((hw.raiseIf (by decide) _).count _).setEngine _) nofun
      ⟨(hi.cursorOk _).2 ⟨hd, framed_inside hl⟩, ?_⟩
    rw [inBytes_length]
    omega
  | endOfStream fpos he => exact h.endOfStream he hi
  | beginInflate fpos p he =>
    obtain ⟨hc, -⟩ : s.cursorOk fpos ∧ _ := h.unit he
    exact h.continues hidle hi (hw.setEngine _) nofun ⟨hc, Inflate.ok_begin p⟩
  | shortPayload fpos p he =>
    obtain ⟨hc, -⟩ : s.cursorOk fpos ∧ _ := h.unit he
    exact h.continues hidle hi (hw.skipShort fpos) nofun ((hi.cursorOk fpos).2 hc)
  | beginG5Block fpos p he hp =>
    obtain ⟨hc, -⟩ : s.cursorOk fpos ∧ _ := h.unit he
    exact h.continues hidle hi (hw.setEngine _) nofun
      ⟨Nat.zero_le _, hc, slice_header_length hp, by rw [rowCountOf_slice_header]; rfl⟩
  | rawPayload fpos p he =>
    obtain ⟨hc, -⟩ : s.cursorOk fpos ∧ _ := h.unit he
    exact h.continues hidle hi ((hw.count _).setEngine _) nofun ((hi.cursorOk fpos).2 hc)
  | g5Command job g he =>
    have hg : s.g5Ok job g := h.unit he
    exact h.continues hidle hi (hw.setEngine _) nofun (State.g5Ok_command hg)
  | g5Store g _ _ hle =>
    exact h.completes (by simp [State.recordG5]) ((hw.recordG5 g).setPbBytes (by simpa [State.recordG5] using hle))
  | g5Block fpos header g he =>
    obtain ⟨-, hc, -⟩ : s.g5Ok (.block fpos header) g := h.unit he
    exact h.continues hidle hi (((hw.recordG5 g).count _).setEngine _) nofun ((hi.cursorOk fpos).2 hc)
  | inflateInstr fpos z z₁ z₂ i f he hf hfi hz =>
    obtain ⟨hc, hok⟩ : s.cursorOk fpos ∧ z.ok := h.unit he
    obtain ⟨-, r, rfl, ht⟩ := Inflate.fetch_eq_some hf
    exact h.continues hidle hi (hw.setEngine _) nofun ⟨hc, (hok.setReader (ht hok.1)).effect hfi hz⟩
  | inflateTables fpos z z' _ _ _ _ he _ _ hz =>
    obtain ⟨hc, hok⟩ : s.cursorOk fpos ∧ z.ok := h.unit he
    exact h.continues hidle hi (hw.setEngine _) nofun ⟨hc, hok.buildTables hz⟩
  | inflateFailed fpos z he =>
    obtain ⟨hc, -⟩ : s.cursorOk fpos ∧ z.ok := h.unit he
    exact h.continues hidle hi (hw.inflateFailed fpos) nofun ((hi.cursorOk fpos).2 hc)
  | inflated fpos z d he =>
    obtain ⟨hc, -⟩ : s.cursorOk fpos ∧ z.ok := h.unit he
    exact h.continues hidle hi ((hw.count _).setEngine _) nofun ((hi.cursorOk fpos).2 hc)
  | shortBlock fpos d he =>
    have hc : s.cursorOk fpos := h.unit he
    exact h.continues hidle hi (hw.skipShort fpos) nofun ((hi.cursorOk fpos).2 hc)
  | assembled fpos d u he _ hu =>
    have hc : s.cursorOk fpos := h.unit he
    exact h.continues hidle hi ((hw.assemble hu).setEngine _) nofun ((hi.cursorOk fpos).2 hc)
  | pixel x y work c u he hx hy hu =>
    obtain ⟨hr, hg, -⟩ : s.rendering ∧ s.gridOk work ∧ _ := h.unit he
    have hwu : u.WorkOk := by
      obtain rfl | rfl | rfl := hu
      · exact hw
      · exact hw.raise (by decide)
      · exact hw.raise (by decide)
    have ho : (u.drawPixel x y work c).engineOk := by
      obtain rfl | rfl | rfl := hu <;> exact State.engineOk_drawPixel hr hg hx hy
    exact h.continues hidle hi (hwu.drawPixel x y work c) (u.drawPixel_busy x y work c) ho
  | gridDone x y work he =>
    obtain ⟨hr, hg, -⟩ : s.rendering ∧ s.gridOk work ∧ _ := h.unit he
    exact h.continues hidle hi (hw.setEngine _) nofun ⟨hr, hg⟩
  | image work src _ hle =>
    exact h.completes rfl (hw.setImgWords (by simpa using hle))

theorem engineStep_inv {s t : State} (h : s.Inv) (hs : engineStep s = .next t) : t.Inv := (engineStep_move hs).inv h

/-! ## The host's accesses -/

/-- The host's side is no part of the invariant. -/
theorem State.Inv.hostSide {s : State} (h : s.Inv) (l : List HostInput) (r : List HostResponse) (n : Nat) :
    ({ s with inputs := l, responses := r, freeIx := n } : State).Inv :=
  ⟨h.caps, h.memories.congr rfl rfl rfl rfl rfl, h.reserved, h.busyFlag, h.doneFlag, h.nextPlane, h.engine⟩

theorem State.Inv.setInputs {s : State} (h : s.Inv) (l : List HostInput) : (s.setInputs l).Inv :=
  h.hostSide l s.responses s.freeIx

theorem State.Inv.respond {s : State} (h : s.Inv) (r : HostResponse) : (s.respond r).Inv :=
  h.hostSide s.inputs (s.responses ++ [r]) s.freeIx

theorem State.Inv.drawn {s : State} (h : s.Inv) : s.drawn.Inv := h.hostSide s.inputs s.responses (s.freeIx + 1)

/-- What the host writes in IDLE: registers, colour table or memories, in their spaces. -/
theorem State.Inv.idleWrite {s t : State} (h : s.Inv) (he : s.busy = false) (hm : t.MemoriesOk) (hc : t.caps = s.caps)
    (hs : t.status = s.status) (hp : t.nextPlane = s.nextPlane) (hu : t.engine = s.engine) : t.Inv := by
  have hidle : t.engine = .idle := by simpa [State.busy, ← hu] using he
  have hb : t.busy = false := by simp [State.busy, hidle]
  exact
    { caps := hc ▸ h.caps
      memories := hm
      reserved := hs ▸ h.reserved
      busyFlag := by rw [hs, hb, h.busyFlag, he]
      doneFlag := by simp [hb]
      nextPlane := hp ▸ h.nextPlane
      engine := by simp [State.engineOk, hidle] }

/-- The start sequence makes a launched state with the invariant (47_host_operations.md R342). -/
theorem State.Inv.startSequence {s : State} (h : s.Inv) : s.startSequence.Inv where
  caps := h.caps
  memories := h.memories.congr rfl rfl rfl rfl rfl
  reserved := (by decide : busyBit &&& statusReserved = 0)
  busyFlag := (by decide : busyBit.getLsbD 0 = true)
  doneFlag := fun _ => (by decide : busyBit.getLsbD 1 = false)
  nextPlane := h.nextPlane
  engine := ⟨rfl, rfl, rfl, rfl⟩

theorem State.Inv.resetInput {s : State} (h : s.Inv) (i p : List Host.Cell) (g : Memory 32) :
    (s.resetInput i p g).Inv where
  caps := h.caps
  memories := State.MemoriesOk.resetInput s i p g
  reserved := (by decide : (0 : Word) &&& statusReserved = 0)
  busyFlag := (by decide : (0 : Word).getLsbD 0 = false)
  doneFlag := nofun
  nextPlane := rfl
  engine := trivial

theorem State.MemoriesOk.regWrite {s : State} (h : s.MemoriesOk) (r : RegName) (v : Word)
    (hr : ∀ i, r = .ct i → i < Config.ctMax) : (s.regWrite r v).MemoriesOk := by
  cases r with
  | ct i => exact h.setCt v (hr i rfl)
  | _ => exact h.congr rfl rfl rfl rfl rfl

theorem ctrlWrite_inv {v : Word} {s t : State} (h : s.Inv) (ht : exec (decodeCtrlWrite v) s = .next t) : t.Inv := by
  have hop (hb : s.busy ≠ true) (op : BitVec 3) : (s.setRegs (fun g => { g with op := op })).Inv :=
    h.idleWrite (by simpa using hb) (h.memories.congr rfl rfl rfl rfl rfl) rfl rfl rfl rfl
  unfold decodeCtrlWrite at ht
  split at ht
  · obtain ⟨-, ht⟩ | ⟨hb, ht⟩ := ite_eq_iff.1 (show execStart _ s = _ from ht)
    · cases ht
    · cases ht
      exact (hop hb _).startSequence
  · obtain ⟨-, ht⟩ | ⟨hb, ht⟩ := ite_eq_iff.1 (show execCtrlSetop _ s = _ from ht)
    · cases ht
    · cases ht
      exact hop hb _

theorem hostRegRead_inv {s : State} (h : s.Inv) (r : RegName) : (s.hostRegRead r).Inv := by
  unfold State.hostRegRead
  split_ifs
  · exact h.respond _
  · exact (h.respond _).drawn
  · exact h.respond _

theorem hostRegWrite_inv {off : Nat} {v : Word} {s t : State} (h : s.Inv) (hoff : off < Config.regSpace)
    (ht : s.hostRegWrite (regAt off) v = .next t) : t.Inv := by
  unfold State.hostRegWrite at ht
  split_ifs at ht with hr hb
  · exact ctrlWrite_inv h ht
  · cases ht
    exact h.idleWrite (by simpa using hb) (h.memories.regWrite _ v fun i hi => regAt_ct_lt hi hoff) (by simp) (by simp)
      (by simp) (by simp)

theorem hostAct_inv {a : HostAction} {s t : State} (h : s.Inv) (ht : hostAct a s = .next t) : t.Inv := by
  cases a with
  | regRead width off =>
    obtain ⟨-, ht⟩ | ⟨-, ht⟩ := ite_eq_iff.1 ht <;> cases ht
    exact hostRegRead_inv h _
  | regWrite width off v =>
    obtain ⟨hok, ht⟩ | ⟨-, ht⟩ := ite_eq_iff.1 ht
    · exact hostRegWrite_inv h (of_decide_eq_true hok).2.2 ht
    · cases ht
  | inRead a =>
    simp only [hostAct, State.hostInRead] at ht
    split_ifs at ht
    cases ht
    exact h.respond _
  | inWrite a v =>
    simp only [hostAct, State.hostInWrite] at ht
    split_ifs at ht with ha hb
    cases ht
    exact h.idleWrite (by simpa using hb) (h.memories.setInByte (Nat.lt_of_not_le ha)) rfl rfl rfl rfl
  | pbRead a =>
    simp only [hostAct, State.hostPbRead] at ht
    split_ifs at ht <;> cases ht
    · exact (h.respond _).drawn
    · exact h.respond _
  | pbWrite a v =>
    simp only [hostAct, State.hostPbWrite] at ht
    split_ifs at ht with ha hb
    cases ht
    exact h.idleWrite (by simpa using hb) (h.memories.setPbBytes (Nat.lt_of_not_le ha)) rfl rfl rfl rfl
  | imgRead a =>
    simp only [hostAct, State.hostImgRead] at ht
    split_ifs at ht <;> cases ht
    · exact (h.respond _).drawn
    · exact h.respond _
  | imgWrite a v => cases ht
  | poll =>
    cases ht
    exact hostRegRead_inv h _
  | reset i p g =>
    cases ht
    exact h.resetInput i p g

/-- Settles O54: the engine's moves and the host's accesses each keep the invariant. -/
theorem everyStepKeepsTheInvariant : Obligations.EveryStepKeepsTheInvariant := by
  intro s t h hs
  unfold step at hs
  split at hs
  · exact engineStep_inv h hs
  · split_ifs at hs
    · exact engineStep_inv (h.setInputs _) hs
    · exact hostAct_inv (h.setInputs _) hs

end Sys2Proof.Machine
end

section
/-!
PROOFS. The register file (10_state.md R22–R35): what a written register reads back as, the map and the legal accesses.
-/

namespace Sys2Proof.Machine

/-! ## Registers read back -/

/-- A field in the low bits with zeros above it is the word masked to the field. -/
theorem zero_append_lowField {m n : Nat} (v : BitVec (m + n)) :
    0#m ++ v.extractLsb' 0 n = v &&& BitVec.ofNat (m + n) (2 ^ n - 1) := by
  apply BitVec.eq_of_getLsbD_eq
  intro i hi
  simp only [BitVec.getLsbD_append, BitVec.getLsbD_extractLsb', BitVec.getLsbD_and, BitVec.getLsbD_ofNat,
    Nat.testBit_two_pow_sub_one, hi, decide_true, Bool.true_and, Nat.zero_add]
  by_cases h : i < n <;> simp [h]

theorem ctrlWord_false_field (v : Word) : ctrlWord false (v.extractLsb' 0 3) = v &&& 0x7 := by
  have hword : ∀ op : BitVec 3, ctrlWord false op = 0#29 ++ op := by decide
  rw [hword]
  exact zero_append_lowField (m := 29) (n := 3) v

/-- BPP in bits 3:0 and ROT in bits 9:8 (10_state.md R27). -/
theorem fmtWord_fields (v : Word) : fmtWord (v.extractLsb' 8 2) (v.extractLsb' 0 4) = v &&& 0x30F := by
  have hmask : ∀ i < 32, (0x30F : Word).getLsbD i = (decide (i < 4) || decide (8 ≤ i ∧ i < 10)) := by decide
  apply BitVec.eq_of_getLsbD_eq
  intro i hi
  rw [BitVec.getLsbD_and, hmask i hi]
  simp only [fmtWord, BitVec.getLsbD_append, BitVec.getLsbD_extractLsb', BitVec.getLsbD_zero, Nat.zero_add]
  rcases Nat.lt_or_ge i 4 with h4 | h4
  · simp [h4, Nat.lt_trans h4]
  rcases Nat.lt_or_ge i 8 with h8 | h8
  · simp [Nat.not_lt.2 h4, Nat.not_le.2 h8, h8, Nat.lt_trans h8]
  rcases Nat.lt_or_ge i 10 with h10 | h10
  · simp [Nat.not_lt.2 h4, Nat.not_lt.2 h8, h8, h10, Nat.le_of_lt_succ h10]
  · simp [Nat.not_lt.2 h4, Nat.not_lt.2 h10]

theorem regRead_regWrite_other {r r' : RegName} (h : r' ≠ r) (v : Word) (s : State) :
    (s.regWrite r v).regRead r' = s.regRead r' := by
  cases r with
  | ctrl => cases r' with | ctrl => exact absurd rfl h | _ => rfl
  | width => cases r' with | width => exact absurd rfl h | _ => rfl
  | height => cases r' with | height => exact absurd rfl h | _ => rfl
  | fmt => cases r' with | fmt => exact absurd rfl h | _ => rfl
  | inLen => cases r' with | inLen => exact absurd rfl h | _ => rfl
  | expLen => cases r' with | expLen => exact absurd rfl h | _ => rfl
  | ctCount => cases r' with | ctCount => exact absurd rfl h | _ => rfl
  | ct i =>
    cases r' with
    | ct j =>
      have hct : (s.regWrite (.ct i) v).ctEntry j = s.ctEntry j :=
        Memory.read_write_one.trans (if_neg fun e => h (congrArg RegName.ct e))
      exact congrArg (0#6 ++ ·) hct
    | _ => rfl
  | _ => rfl

/-- Settles O47: read back register by register, the fields by the two lemmas above on masks. -/
theorem registerReadsBackItsFields : Obligations.RegisterReadsBackItsFields := by
  intro r r' v s
  refine ⟨?_, fun h => regRead_regWrite_other h v s⟩
  cases r with
  | ctrl => exact ctrlWord_false_field v
  | width => exact zero_append_lowField (m := 16) (n := 16) v
  | height => exact zero_append_lowField (m := 16) (n := 16) v
  | fmt => exact fmtWord_fields v
  | ctCount => exact zero_append_lowField (m := 23) (n := 9) v
  | ct i =>
    have hct : (s.regWrite (.ct i) v).ctEntry i = v.extractLsb' 0 26 := Memory.read_write_one.trans (if_pos rfl)
    exact (congrArg (0#6 ++ ·) hct).trans (zero_append_lowField (m := 6) (n := 26) v)
  | _ => rfl

/-! ## The map and the legal accesses -/

/-- Above the named registers stands the colour table, and before it nothing (10_state.md R22). -/
theorem regAt_of_ge {off : Nat} (h : 0x03C ≤ off) :
    regAt off = if Config.ctBase ≤ off then .ct ((off - Config.ctBase) / 4) else .reserved := by
  simp (disch := omega) only [regAt, if_neg]

theorem regAt_reserved {off : Nat} (h : 0x03C ≤ off) (h' : off < 0x100) : regAt off = .reserved :=
  (regAt_of_ge h).trans (if_neg (Nat.not_le.2 h'))

theorem regAt_ctEntry (i : Nat) : regAt (0x100 + 4 * i) = .ct i := by
  have hbase : Config.ctBase ≤ 0x100 + 4 * i := Nat.le_add_right ..
  have hi : (0x100 + 4 * i - Config.ctBase) / 4 = i := by
    simp only [Config.ctBase]
    omega
  rw [regAt_of_ge (by omega), if_pos hbase, hi]

theorem regAccessOk_iff {width off : Nat} :
    regAccessOk width off = true ↔ width = 32 ∧ off % 4 = 0 ∧ off < 0x500 := decide_eq_true_iff

theorem hostAct_reg_refused {width off : Nat} (h : width ≠ 32 ∨ off % 4 ≠ 0 ∨ 0x500 ≤ off) (v : Word) (s : State) :
    hostAct (.regRead width off) s = .refused .regAccess ∧ hostAct (.regWrite width off v) s = .refused .regAccess := by
  have hbad : ¬ regAccessOk width off = true := by
    rw [regAccessOk_iff]
    omega
  exact ⟨if_neg hbad, if_neg hbad⟩

/-- Settles O48: the map by its offsets, and each access by the test that comes first. -/
theorem registerMapAndLegalAccesses : Obligations.RegisterMapAndLegalAccesses :=
  ⟨rfl, fun _ => regAt_reserved, fun i _ => regAt_ctEntry i, fun _ _ => regAccessOk_iff,
    fun _ _ v s h => hostAct_reg_refused h v s,
    fun _ _ _ => ⟨fun h => ⟨if_pos h, if_pos h⟩, fun h => ⟨if_pos h, if_pos h⟩, fun h => if_pos h⟩, fun _ _ _ => rfl⟩

end Sys2Proof.Machine
end

section
/-!
PROOFS. Where the engine writes (20_memory.md R71): which moves write PB or IMG, and inside which range (O58).
-/

namespace Sys2Proof.Machine

/-! ## Moves that write nothing -/

section
variable (s : State)

@[simp] theorem State.endOfStream_pbMem (fpos : Nat) : (s.endOfStream fpos).pbMem = s.pbMem := by
  unfold State.endOfStream
  dsimp only
  split <;> simp [State.beginRender]

@[simp] theorem State.endOfStream_imgMem (fpos : Nat) : (s.endOfStream fpos).imgMem = s.imgMem := by
  unfold State.endOfStream
  dsimp only
  split <;> simp [State.beginRender]

@[simp] theorem State.drawPixel_pbMem (x y : Nat) (work : Memory 24) (c : Rgb) :
    (s.drawPixel x y work c).pbMem = s.pbMem := by
  unfold State.drawPixel
  dsimp only
  split <;> rfl

@[simp] theorem State.drawPixel_imgMem (x y : Nat) (work : Memory 24) (c : Rgb) :
    (s.drawPixel x y work c).imgMem = s.imgMem := by
  unfold State.drawPixel
  dsimp only
  split <;> rfl

end

theorem State.pbByte_congr {s t : State} (h : t.pbMem = s.pbMem) (a : Nat) : t.pbByte a = s.pbByte a :=
  congrArg (Memory.read Config.unlistedByte · a) h

theorem State.imgWord_congr {s t : State} (h : t.imgMem = s.imgMem) (a : Nat) : t.imgWord a = s.imgWord a :=
  congrArg (Memory.read Config.unlistedWord · a) h

/-! ## The assembler's range -/

/-- The plane a block goes to is one of the NP planes (45_assembler.md R262–R264). -/
theorem choosePlane_lt (d : Bytes) (s : State) : (s.choosePlane d).1 < s.np := by
  unfold State.choosePlane State.np
  split_ifs with hb hf
  · exact hf
  · exact s.nextPlane.isLt
  · exact Nat.one_pos

/-- The rows a block fills end inside its plane (45_assembler.md R266, R268). -/
theorem rows_inside (d : Bytes) (s : State) : s.firstRow d * s.bpr + s.writeLength d ≤ s.psize := by
  have hrows : s.firstRow d + (s.endRow d - s.firstRow d) ≤ s.he := by
    simp only [State.firstRow, State.endRow]
    omega
  calc s.firstRow d * s.bpr + s.writeLength d
      ≤ s.firstRow d * s.bpr + (s.endRow d - s.firstRow d) * s.bpr := Nat.add_le_add_left (Nat.min_le_left ..) _
    _ = s.bpr * (s.firstRow d + (s.endRow d - s.firstRow d)) := by ring
    _ ≤ s.psize := Nat.mul_le_mul_left _ hrows

/-- What a block writes ends inside the planes (45_assembler.md R268). -/
theorem write_inside (d : Bytes) (s : State) : s.writeBase d + s.writeLength d ≤ s.np * s.psize := by
  have hplane : ((s.choosePlane d).1 + 1) * s.psize ≤ s.np * s.psize := Nat.mul_le_mul_right _ (choosePlane_lt d s)
  have hrows := rows_inside d s
  rw [Nat.succ_mul] at hplane
  simp only [State.writeBase]
  omega

/-- Assembly writes PB inside the planes only, and nothing of IMG. -/
theorem assemble_writes {d : Bytes} {s u : State} (h : s.assemble d = .next u) :
    (∀ a, s.np * s.psize ≤ a → u.pbByte a = s.pbByte a) ∧ u.imgMem = s.imgMem := by
  obtain ⟨-, rfl⟩ | ⟨-, -, rfl⟩ := assemble_cases h
  · exact ⟨fun a _ => State.pbByte_congr (by simp [State.clampEvents]) a, by simp [State.clampEvents]⟩
  · refine ⟨fun a ha => ?_, by simp [State.clampEvents]⟩
    have hlen : (slice d 6 (6 + s.writeLength d)).length ≤ s.writeLength d := by simp [slice]; omega
    have hin := write_inside d s
    refine (Memory.read_write_outside (.inr (by omega))).trans (State.pbByte_congr ?_ a)
    simp [State.clampEvents]

/-! ## The moves -/

/-- Only the clearing of the planes and the assembler, in a decoding operation, and the end of the G5 operation write PB. -/
theorem State.EngineMove.writesPb {s t : State} (h : s.Inv) (m : s.EngineMove t) :
    t.pbMem = s.pbMem ∨
    (s.decoding ∧ ∀ a, s.np * s.psize ≤ a → t.pbByte a = s.pbByte a) ∨
    (s.regs.op = 4 ∧ ∀ a, s.regs.expLen.toNat ≤ a → t.pbByte a = s.pbByte a) := by
  cases m with
  | beginDecode _ hd =>
    refine .inr (.inl ⟨hd, fun a ha => Memory.read_clear.trans (if_neg ?_)⟩)
    omega
  | assembled fpos d u he _ hu =>
    obtain ⟨hd, -⟩ : s.cursorOk fpos := h.unit he
    exact .inr (.inl ⟨hd, (assemble_writes hu).1⟩)
  | g5Store g he =>
    obtain ⟨hle, hop, -, -, hexp⟩ : s.g5Ok .standalone g := h.unit he
    refine .inr (.inr ⟨hop, fun a ha => (Memory.read_write_outside (.inr ?_)).trans (State.pbByte_congr ?_ a)⟩)
    · omega
    · simp [State.recordG5]
  | frame => simp
  | endOfStream => simp
  | g5Block => simp [State.recordG5]
  | pixel _ _ _ _ _ _ _ _ hu => obtain rfl | rfl | rfl := hu <;> simp
  | _ => exact .inl rfl

/-- Only the rotation writes IMG, in a rendering operation. -/
theorem State.EngineMove.writesImg {s t : State} (h : s.Inv) (m : s.EngineMove t) :
    t.imgMem = s.imgMem ∨ (s.rendering ∧ ∀ a, s.w * s.h ≤ a → t.imgWord a = s.imgWord a) := by
  cases m with
  | image work src he =>
    obtain ⟨hr, -⟩ : s.rendering ∧ _ := h.unit he
    refine .inr ⟨hr, fun a ha => Memory.read_write_outside (.inr ?_)⟩
    simpa using ha
  | assembled _ _ _ _ _ hu => exact .inl (assemble_writes hu).2
  | frame => simp
  | endOfStream => simp
  | g5Store => simp [State.recordG5]
  | g5Block => simp [State.recordG5]
  | pixel _ _ _ _ _ _ _ _ hu => obtain rfl | rfl | rfl := hu <;> simp
  | _ => exact .inl rfl

/-- Settles O58: a move that writes belongs to an operation that may, and stays inside that operation's range. -/
theorem theEngineWritesInsideItsRanges : Obligations.TheEngineWritesInsideItsRanges := by
  intro s t h hs
  have hpb := (engineStep_move hs).writesPb h
  have himg := (engineStep_move hs).writesImg h
  refine ⟨fun hop a ha => ?_, fun hop a ha => ?_, fun h1 h3 h4 a => ?_, fun hop a ha => ?_, fun h2 h3 a => ?_⟩
  · obtain hp | ⟨-, hp⟩ | ⟨h4, -⟩ := hpb
    · exact State.pbByte_congr hp a
    · exact hp a ha
    · simp [h4] at hop
  · obtain hp | ⟨⟨hd, -⟩, -⟩ | ⟨-, hp⟩ := hpb
    · exact State.pbByte_congr hp a
    · simp [hop] at hd
    · exact hp a ha
  · obtain hp | ⟨⟨hd, -⟩, -⟩ | ⟨hop, -⟩ := hpb
    · exact State.pbByte_congr hp a
    · exact (hd.elim h1 h3).elim
    · exact absurd hop h4
  · obtain hi | ⟨-, hi⟩ := himg
    · exact State.imgWord_congr hi a
    · exact hi a ha
  · obtain hi | ⟨⟨hr, -⟩, -⟩ := himg
    · exact State.imgWord_congr hi a
    · exact (hr.elim h2 h3).elim

end Sys2Proof.Machine
end

section
/-!
PROOFS. The canonical memories as data (O52).
-/

namespace Sys2Proof.Machine

section
variable {w : Nat} {d : BitVec w}

/-- With rising addresses an entry is the only one of its address, so the read finds it. -/
theorem Memory.read_listed {m : Memory w} (h : m.Pairwise (fun p q => p.1 < q.1)) {c : Nat × BitVec w} (hc : c ∈ m) :
    Memory.read d m c.1 = c.2 := by
  induction m with
  | nil => cases hc
  | cons p m ih =>
    obtain ⟨hp, hm⟩ := List.pairwise_cons.1 h
    rcases List.mem_cons.1 hc with rfl | hc
    · exact if_pos rfl
    · exact (if_neg (Nat.ne_of_lt (hp c hc))).trans (ih hm hc)

/-- The entries of a canonical memory are what is read that an unlisted address does not read as. -/
theorem Memory.mem_iff_read {m : Memory w} (h : Memory.wf d m) (c : Nat × BitVec w) :
    c ∈ m ↔ c.2 ≠ d ∧ Memory.read d m c.1 = c.2 := by
  obtain ⟨hsorted, hval⟩ := h
  refine ⟨fun hc => ⟨hval c hc, Memory.read_listed hsorted hc⟩, fun ⟨hd, hr⟩ => ?_⟩
  obtain ⟨e, he, hea⟩ : ∃ e ∈ m, e.1 = c.1 := by
    by_contra! hno
    exact hd (hr.symm.trans (Memory.read_unlisted hno))
  have hev : e.2 = c.2 := (Memory.read_listed hsorted he).symm.trans (hea ▸ hr)
  exact Prod.ext hea hev ▸ he

end

/-- Settles O52: reads fix the entries, and rising addresses fix their order. -/
theorem canonicalMemoriesAreEqualWhenTheyReadEqual : Obligations.CanonicalMemoriesAreEqualWhenTheyReadEqual := by
  intro w d m n hm hn hread
  have hmem (c : Nat × BitVec w) : c ∈ m ↔ c ∈ n := by
    rw [Memory.mem_iff_read hm, Memory.mem_iff_read hn, hread]
  have : Std.Irrefl (fun p q : Nat × BitVec w => p.1 < q.1) := ⟨fun p => Nat.lt_irrefl p.1⟩
  have : Std.Antisymm (fun p q : Nat × BitVec w => p.1 < q.1) := ⟨fun _ _ h k => absurd h (Nat.lt_asymm k)⟩
  exact hm.1.eq_of_mem_iff hn.1 hmem

end Sys2Proof.Machine
end

section
/-!
PROOFS. The host's accesses in IDLE (20_memory.md R74, R75, R77; 47_host_operations.md R340): what each answers (O50).
-/

namespace Sys2Proof.Machine

/-- A read of IN answers its byte in every phase (70_reset_and_hazards.md R404). -/
theorem hostAct_inRead {s : State} {a : Nat} (ha : a < s.caps.inCap) :
    hostAct (.inRead a) s = .next (s.respond (.byte (s.inByte a))) := if_neg (Nat.not_le.2 ha)

theorem State.not_busy_of_idle {s : State} (he : s.engine = .idle) : ¬ s.busy = true := by simp [State.busy, he]

section
variable {s : State} (he : s.engine = .idle)
include he

/-! ## Reads -/

theorem hostAct_regRead_idle {off : Nat} (hok : regAccessOk 32 off = true) :
    hostAct (.regRead 32 off) s = .next (s.respond (.word (s.regRead (regAt off)))) :=
  (if_pos hok).trans (congrArg _ (if_neg (State.not_busy_of_idle he)))

theorem hostAct_pbRead_idle {a : Nat} (ha : a < s.caps.pbCap) :
    hostAct (.pbRead a) s = .next (s.respond (.byte (s.pbByte a))) :=
  (if_neg (Nat.not_le.2 ha)).trans (if_neg (State.not_busy_of_idle he))

theorem hostAct_imgRead_idle {a : Nat} (ha : a < s.caps.imgCap) :
    hostAct (.imgRead a) s = .next (s.respond (.word (s.imgWord a))) :=
  (if_neg (Nat.not_le.2 ha)).trans (if_neg (State.not_busy_of_idle he))

/-! ## Writes -/

theorem hostAct_inWrite_idle {a : Nat} (ha : a < s.caps.inCap) (v : Byte) :
    hostAct (.inWrite a v) s = .next (s.setInByte a v) :=
  (if_neg (Nat.not_le.2 ha)).trans (if_neg (State.not_busy_of_idle he))

theorem hostAct_pbWrite_idle {a : Nat} (ha : a < s.caps.pbCap) (v : Byte) :
    hostAct (.pbWrite a v) s = .next (s.setPbBytes a [v]) :=
  (if_neg (Nat.not_le.2 ha)).trans (if_neg (State.not_busy_of_idle he))

theorem hostAct_regWrite_idle {off : Nat} (hok : regAccessOk 32 off = true) (hr : regAt off ≠ .ctrl) (v : Word) :
    hostAct (.regWrite 32 off v) s = .next (s.regWrite (regAt off) v) :=
  (if_pos hok).trans ((if_neg hr).trans (if_neg (State.not_busy_of_idle he)))

end

theorem setInByte_sameRegisters (a : Nat) (v : Byte) (s : State) : s.sameRegistersBut [] (s.setInByte a v) :=
  ⟨rfl, fun r _ => by cases r <;> rfl⟩

theorem setPbBytes_sameRegisters (a : Nat) (vs : Bytes) (s : State) : s.sameRegistersBut [] (s.setPbBytes a vs) :=
  ⟨rfl, fun r _ => by cases r <;> rfl⟩

/-- Settles O50: each access by what it answers in IDLE; a written memory reads back by the law of one-unit writes. -/
theorem idleHostAccesses : Obligations.IdleHostAccesses := by
  intro s he
  refine ⟨fun _ => hostAct_regRead_idle he, fun _ => hostAct_inRead, fun _ => hostAct_pbRead_idle he,
    fun _ => hostAct_imgRead_idle he, fun a v ha => ?_, fun a v ha => ?_,
    fun _ v hok hr => hostAct_regWrite_idle he hok hr v⟩
  · exact ⟨_, hostAct_inWrite_idle he ha v, fun _ => Memory.read_write_one, fun _ => rfl, fun _ => rfl, he,
      setInByte_sameRegisters a v s, rfl, rfl, rfl⟩
  · exact ⟨_, hostAct_pbWrite_idle he ha v, fun _ => Memory.read_write_one, fun _ => rfl, fun _ => rfl, he,
      setPbBytes_sameRegisters a [v] s, rfl, rfl, rfl⟩

end Sys2Proof.Machine
end

section
/-!
PROOFS. The codec (30_encoding.md): what the decoder of each format answers on the bytes the encoder writes (O1), and what
any bytes decode to (O2, O3, O5).
-/

namespace Sys2Proof

/-! ## Fields of a byte string -/

theorem byteAt_append_right (s rest : Bytes) (i : Nat) : byteAt (s ++ rest) (s.length + i) = byteAt rest i := by
  simp only [byteAt, List.getD_eq_getElem?_getD, List.getElem?_append_right (Nat.le_add_right _ _),
    Nat.add_sub_cancel_left]

theorem u16le_append_right (s rest : Bytes) (i : Nat) : u16le (s ++ rest) (s.length + i) = u16le rest i := by
  simp only [u16le, Nat.add_assoc, byteAt_append_right]

theorem u32le_of_bytes32le (v : Word) : u32le (bytes32le v) 0 = v := by
  simpa using u32le_bytes32le v []

/-- A zlib magic is a value of the first two bytes, which are the start row of a header (70_reset_and_hazards.md R408). -/
theorem zlibMagic_eq_u16le {p : Bytes} (hp : 2 ≤ p.length) (flg : Byte) :
    zlibMagic p flg = (u16le p 0 == flg ++ 0x78#8) := by
  have happend (a b : Byte) : (a ++ b == flg ++ 0x78#8) = (b == 0x78#8 && a == flg) := by
    rw [Bool.eq_iff_iff, Bool.and_eq_true, beq_iff_eq, beq_iff_eq, beq_iff_eq]
    constructor
    · intro h
      have hlow := congrArg (BitVec.extractLsb' 0 8) h
      have hhigh := congrArg (BitVec.extractLsb' 8 8) h
      rw [BitVec.extractLsb'_append_eq_right, BitVec.extractLsb'_append_eq_right] at hlow
      rw [BitVec.extractLsb'_append_eq_left, BitVec.extractLsb'_append_eq_left] at hhigh
      exact ⟨hlow, hhigh⟩
    · rintro ⟨rfl, rfl⟩
      rfl
  rw [u16le, happend, zlibMagic, decide_eq_true hp, Bool.true_and]
  rfl

/-- A payload as long as a magic has none exactly where its start row is none. -/
theorem zlibStartRow_u16le {p : Bytes} (hp : 2 ≤ p.length) :
    zlibStartRow (u16le p 0) = (zlibMagic p 0x01 || zlibMagic p 0x9C || zlibMagic p 0xDA) := by
  simp only [zlibMagic_eq_u16le hp]
  rfl

/-! ## The decoders on encoded values -/

theorem decodeG5_lit (n : BitVec 7) : decodeG5 (0#1 ++ n) = .lit n := by
  revert n; decide

theorem decodeG5_runB (ab : BitVec 2) (n : BitVec 4) : decodeG5 (2#2 ++ (ab ++ n)) = .runB ab n := by
  revert ab n; decide

theorem decodeG5_runW (ab : BitVec 2) (n : BitVec 4) : decodeG5 (3#2 ++ (ab ++ n)) = .runW ab n := by
  revert ab n; decide

/-- A header whose start row is no magic is classed by its format bit (30_encoding.md R121). -/
theorem decodePayload_headerBytes {r : BitVec 16} (hr : zlibStartRow r = false) (c : BitVec 16) (f : BitVec 7)
    (bit : BitVec 1) (g : Byte) :
    decodePayload (headerBytes r c (f ++ bit) g) = if bit.getLsbD 0 then .payG5 r c f g else .payRaw r c f g := by
  have hrow : u16le (headerBytes r c (f ++ bit) g) 0 = r := by
    rw [headerBytes, List.append_assoc, u16le_bytes16le]
  have hcount : u16le (headerBytes r c (f ++ bit) g) 2 = c := by
    rw [headerBytes, List.append_assoc]
    exact (u16le_append_right (bytes16le r) _ 0).trans (u16le_bytes16le ..)
  have hfmt : byteAt (headerBytes r c (f ++ bit) g) 4 = f ++ bit := rfl
  have hflags : byteAt (headerBytes r c (f ++ bit) g) 5 = g := rfl
  have hlen : (headerBytes r c (f ++ bit) g).length = 6 := rfl
  have hmagic := zlibStartRow_u16le (p := headerBytes r c (f ++ bit) g) (by omega)
  rw [hrow, hr, eq_comm, Bool.or_eq_false_iff, Bool.or_eq_false_iff] at hmagic
  obtain ⟨⟨h01, h9C⟩, hDA⟩ := hmagic
  rw [decodePayload, h01, h9C, hDA, hlen, hrow, hcount, hfmt, hflags, BitVec.extractLsb'_append_eq_left,
    BitVec.getLsbD_append]
  rfl

theorem decode_symLit {n : Nat} (h : n < 65536) : decode .symLit (symbolBytes n) = decodeLitSym n := by
  simp [decode, u16le_symbolBytes h]

theorem decode_symDist {n : Nat} (h : n < 65536) : decode .symDist (symbolBytes n) = decodeDistSym n := by
  simp [decode, u16le_symbolBytes h]

theorem decode_symCl {n : Nat} (h : n < 65536) : decode .symCl (symbolBytes n) = decodeClSym n := by
  simp [decode, u16le_symbolBytes h]

theorem decode_stream (v : Word) : decode .stream (bytes32le v) = .ok (.frame v) := by
  simp [decode, u32le_of_bytes32le]

/-- The three header bits as a number are read back from a byte (30_encoding.md R111). -/
theorem decode_dflBlock (v : Nat) : decode .dflBlock [BitVec.ofNat 8 v] = .ok (decodeDflBlock (BitVec.ofNat 3 v)) := by
  have hbits : (BitVec.ofNat 8 v).extractLsb' 0 3 = BitVec.ofNat 3 v := by
    apply BitVec.eq_of_toNat_eq
    simp only [BitVec.extractLsb'_toNat, BitVec.toNat_ofNat, Nat.shiftRight_zero]
    omega
  rw [← hbits]
  rfl

theorem decode_ctrlWrite (v : Word) : decode .ctrlWrite (bytes32le v) = .ok (decodeCtrlWrite v) := by
  simp [decode, u32le_of_bytes32le]

/-- A CTRL value with START names the operation of its OP field (30_encoding.md R123). -/
theorem decode_ctrlLaunch (op : BitVec 3) : decode .ctrlLaunch (bytes32le (ctrlWord true op)) = .ok (decodeOp op) := by
  have hstart : (ctrlWord true op).getLsbD 8 = true := by revert op; decide
  have hop : (ctrlWord true op).extractLsb' 0 3 = op := by revert op; decide
  simp [decode, u32le_of_bytes32le, hstart, hop]

theorem fmtWord_bpp (rot : BitVec 2) (bpp : BitVec 4) : (fmtWord rot bpp).extractLsb' 0 4 = bpp := by
  revert rot bpp; decide

theorem fmtWord_rot (rot : BitVec 2) (bpp : BitVec 4) : (fmtWord rot bpp).extractLsb' 8 2 = rot := by
  revert rot bpp; decide

theorem decode_fmtPixel (rot : BitVec 2) (bpp : BitVec 4) :
    decode .fmtPixel (bytes32le (fmtWord rot bpp)) = decodePixel bpp := by
  simp [decode, u32le_of_bytes32le, fmtWord_bpp]

theorem decode_fmtRotate (rot : BitVec 2) (bpp : BitVec 4) :
    decode .fmtRotate (bytes32le (fmtWord rot bpp)) = .ok (decodeRotate rot bpp) := by
  simp [decode, u32le_of_bytes32le, fmtWord_bpp, fmtWord_rot]

/-! ## Symbols of the three alphabets -/

theorem decodeLitSym_lit (s : BitVec 8) : decodeLitSym s.toNat = .ok (.dflLit s) := by
  have := s.isLt
  rw [decodeLitSym, if_pos (by omega), BitVec.ofNat_toNat, BitVec.setWidth_eq]

theorem decodeLitSym_len {s : BitVec 9} (h : 257 ≤ s.toNat ∧ s.toNat ≤ 285) :
    decodeLitSym s.toNat = .ok (.dflLen s) := by
  rw [decodeLitSym, if_neg (by omega), if_neg (by omega), if_pos h.2, BitVec.ofNat_toNat, BitVec.setWidth_eq]

theorem decodeLitSym_lenRsv {s : BitVec 9} (h : 286 ≤ s.toNat ∧ s.toNat ≤ 287) :
    decodeLitSym s.toNat = .ok (.dflLenRsv s) := by
  rw [decodeLitSym, if_neg (by omega), if_neg (by omega), if_neg (by omega), if_pos h.2, BitVec.ofNat_toNat,
    BitVec.setWidth_eq]

theorem decodeDistSym_dist {s : BitVec 5} (h : s.toNat ≤ 29) : decodeDistSym s.toNat = .ok (.dflDist s) := by
  rw [decodeDistSym, if_pos h, BitVec.ofNat_toNat, BitVec.setWidth_eq]

theorem decodeDistSym_distRsv {s : BitVec 5} (h : 30 ≤ s.toNat) : decodeDistSym s.toNat = .ok (.dflDistRsv s) := by
  have := s.isLt
  rw [decodeDistSym, if_neg (by omega), if_pos (by omega), BitVec.ofNat_toNat, BitVec.setWidth_eq]

theorem decodeClSym_len (s : BitVec 4) : decodeClSym s.toNat = .ok (.dflClLen s) := by
  have := s.isLt
  rw [decodeClSym, if_pos (by omega), BitVec.ofNat_toNat, BitVec.setWidth_eq]

/-! ## The round trip -/

/-- Settles O1: row by row, each format's decoder on the value its encoder writes. -/
theorem decodeEncodeRoundTrip : Obligations.DecodeEncodeRoundTrip := by
  intro i hwf
  have below {w : Nat} (s : BitVec w) (hw : 2 ^ w ≤ 65536) : s.toNat < 65536 := Nat.lt_of_lt_of_le s.isLt hw
  cases i with
  | lit n => exact congrArg Except.ok (decodeG5_lit n)
  | runB ab n => exact congrArg Except.ok (decodeG5_runB ab n)
  | runW ab n => exact congrArg Except.ok (decodeG5_runW ab n)
  | frame l => exact decode_stream l
  | payG5 r c f g => exact congrArg Except.ok (decodePayload_headerBytes (by simpa [Instr.wf] using hwf) c f 1#1 g)
  | payRaw r c f g => exact congrArg Except.ok (decodePayload_headerBytes (by simpa [Instr.wf] using hwf) c f 0#1 g)
  | dflStored f => revert f; decide
  | dflFixed f => revert f; decide
  | dflDynamic f => revert f; decide
  | dflBtype3 f => revert f; decide
  | dflLit s => exact (decode_symLit (below s (by decide))).trans (decodeLitSym_lit s)
  | dflLen s => exact (decode_symLit (below s (by decide))).trans (decodeLitSym_len (of_decide_eq_true hwf))
  | dflLenRsv s => exact (decode_symLit (below s (by decide))).trans (decodeLitSym_lenRsv (of_decide_eq_true hwf))
  | dflDist s => exact (decode_symDist (below s (by decide))).trans (decodeDistSym_dist (of_decide_eq_true hwf))
  | dflDistRsv s => exact (decode_symDist (below s (by decide))).trans (decodeDistSym_distRsv (of_decide_eq_true hwf))
  | dflClLen s => exact (decode_symCl (below s (by decide))).trans (decodeClSym_len s)
  | ctrlSetop op => exact (decode_ctrlWrite _).trans (by revert op; decide)
  | start op => exact (decode_ctrlWrite _).trans (by revert op; decide)
  | planeRead b => exact (decode_fmtPixel 0 b).trans (if_pos (of_decide_eq_true hwf))
  | indexExtract b =>
    have hb : 3 ≤ b.toNat ∧ b.toNat ≤ 8 := of_decide_eq_true hwf
    exact (decode_fmtPixel 0 b).trans ((if_neg (by omega)).trans (if_pos hb))
  | rot0 b => exact decode_fmtRotate 0 b
  | rot1 b => exact decode_fmtRotate 1 b
  | rot2 b => exact decode_fmtRotate 2 b
  | rot3 b => exact decode_fmtRotate 3 b
  | _ => rfl

/-! ## What bytes decode to -/

/-- An instruction of a format that some encoding stands for. -/
def Instr.WfIn (f : Format) (i : Instr) : Prop := i.wf = true ∧ formatOf i = f

/-- Where a test of the bytes answers an error, an instruction is read behind it only. -/
theorem eq_ok_of_guard {c : Prop} [Decidable c] {e : DecodeError} {x : Except DecodeError Instr} {i : Instr}
    (h : (if c then .error e else x) = .ok i) : ¬ c ∧ x = .ok i := by
  split_ifs at h with hc
  exact ⟨hc, h⟩

theorem decodeG5_wfIn (c : Byte) : (decodeG5 c).WfIn .g5Cmd := by
  unfold decodeG5
  split_ifs <;> exact ⟨rfl, rfl⟩

/-- A header that passed the magic tests has a start row that is no magic. -/
theorem decodePayload_wfIn (p : Bytes) : (decodePayload p).WfIn .payload := by
  unfold decodePayload
  split_ifs with h01 h9C hDA hlen
  · exact ⟨rfl, rfl⟩
  · exact ⟨rfl, rfl⟩
  · exact ⟨rfl, rfl⟩
  · exact ⟨rfl, rfl⟩
  all_goals
    have hrow : zlibStartRow (u16le p 0) = false := by
      rw [zlibStartRow_u16le (by omega), eq_false_of_ne_true h01, eq_false_of_ne_true h9C, eq_false_of_ne_true hDA]
      rfl
    exact ⟨by rw [Instr.wf, hrow]; rfl, rfl⟩

theorem decodeDflBlock_wfIn (v : BitVec 3) : (decodeDflBlock v).WfIn .dflBlock := by
  revert v; unfold Instr.WfIn; decide

theorem decodeLitSym_wfIn {n : Nat} {i : Instr} (h : decodeLitSym n = .ok i) : i.WfIn .symLit := by
  unfold decodeLitSym at h
  split_ifs at h <;> cases h
  · exact ⟨rfl, rfl⟩
  · exact ⟨rfl, rfl⟩
  · exact ⟨decide_eq_true (by rw [BitVec.toNat_ofNat]; omega), rfl⟩
  · exact ⟨decide_eq_true (by rw [BitVec.toNat_ofNat]; omega), rfl⟩

theorem decodeDistSym_wfIn {n : Nat} {i : Instr} (h : decodeDistSym n = .ok i) : i.WfIn .symDist := by
  unfold decodeDistSym at h
  split_ifs at h <;> cases h
  · exact ⟨decide_eq_true (by rw [BitVec.toNat_ofNat]; omega), rfl⟩
  · exact ⟨decide_eq_true (by rw [BitVec.toNat_ofNat]; omega), rfl⟩

theorem decodeClSym_wfIn {n : Nat} {i : Instr} (h : decodeClSym n = .ok i) : i.WfIn .symCl := by
  unfold decodeClSym at h
  split_ifs at h <;> cases h <;> exact ⟨rfl, rfl⟩

theorem decodeCtrlWrite_wfIn (v : Word) : (decodeCtrlWrite v).WfIn .ctrlWrite := by
  unfold decodeCtrlWrite
  split_ifs <;> exact ⟨rfl, rfl⟩

theorem decodeOp_wfIn (op : BitVec 3) : (decodeOp op).WfIn .ctrlLaunch := by
  unfold decodeOp
  split <;> exact ⟨rfl, rfl⟩

theorem decodePixel_wfIn {b : BitVec 4} {i : Instr} (h : decodePixel b = .ok i) : i.WfIn .fmtPixel := by
  unfold decodePixel at h
  split_ifs at h with h1 h3 <;> cases h
  · exact ⟨decide_eq_true h1, rfl⟩
  · exact ⟨decide_eq_true h3, rfl⟩

theorem decodeRotate_wfIn (rot : BitVec 2) (bpp : BitVec 4) : (decodeRotate rot bpp).WfIn .fmtRotate := by
  unfold decodeRotate
  split <;> exact ⟨rfl, rfl⟩

/-- Settles O2: format by format, behind the test of the length. -/
theorem decodedInstructionIsWellFormed : Obligations.DecodedInstructionIsWellFormed := by
  intro f b i h
  change i.WfIn f
  cases f with
  | g5Cmd => obtain ⟨-, ⟨⟩⟩ := eq_ok_of_guard h; exact decodeG5_wfIn _
  | stream => obtain ⟨-, ⟨⟩⟩ := eq_ok_of_guard h; exact ⟨rfl, rfl⟩
  | payload => cases h; exact decodePayload_wfIn b
  | dflBlock => obtain ⟨-, ⟨⟩⟩ := eq_ok_of_guard h; exact decodeDflBlock_wfIn _
  | symLit => exact decodeLitSym_wfIn (eq_ok_of_guard h).2
  | symDist => exact decodeDistSym_wfIn (eq_ok_of_guard h).2
  | symCl => exact decodeClSym_wfIn (eq_ok_of_guard h).2
  | ctrlWrite => obtain ⟨-, ⟨⟩⟩ := eq_ok_of_guard h; exact decodeCtrlWrite_wfIn _
  | ctrlLaunch =>
    obtain ⟨-, h⟩ := eq_ok_of_guard h
    split_ifs at h
    cases h
    exact decodeOp_wfIn _
  | fmtPixel => exact decodePixel_wfIn (eq_ok_of_guard h).2
  | fmtRotate => obtain ⟨-, ⟨⟩⟩ := eq_ok_of_guard h; exact decodeRotate_wfIn _ _

/-! ## Command bytes -/

/-- The command of a byte by its number (30_encoding.md R107–R109). -/
theorem decodeG5_eq (c : Byte) :
    decodeG5 c = if 0x80 ≤ c.toNat then
        if 0xC0 ≤ c.toNat then .runW (BitVec.ofNat 2 (c.toNat / 16)) (BitVec.ofNat 4 c.toNat)
        else .runB (BitVec.ofNat 2 (c.toNat / 16)) (BitVec.ofNat 4 c.toNat)
      else .lit (BitVec.ofNat 7 c.toNat) := by
  have h7 : c.getLsbD 7 = decide (0x80 ≤ c.toNat) := by revert c; decide
  have h6 : 0x80 ≤ c.toNat → c.getLsbD 6 = decide (0xC0 ≤ c.toNat) := by revert c; decide
  have hhigh : c.extractLsb' 4 2 = BitVec.ofNat 2 (c.toNat / 16) := by
    rw [BitVec.extractLsb', Nat.shiftRight_eq_div_pow]
  unfold decodeG5
  rw [h7, hhigh]
  by_cases h : 0x80 ≤ c.toNat
  · simp only [h, h6 h, decide_eq_true_eq]
    rfl
  · simp only [h, decide_false]
    rfl

theorem encode_decodeG5 (c : Byte) : encode (decodeG5 c) = [c] := by
  revert c; decide

/-- Settles O3: the command of a byte depends on where its number stands to 0x80 and 0xC0. -/
theorem everyByteIsOneG5Command : Obligations.EveryByteIsOneG5Command := by
  intro c
  refine ⟨fun h => ?_, fun h80 hC0 => ?_, fun hC0 => ?_, encode_decodeG5 c⟩
  · rw [decodeG5_eq, if_neg (by omega)]
  · rw [decodeG5_eq, if_pos h80, if_neg (by omega)]
  · rw [decodeG5_eq, if_pos (by omega), if_pos hC0]

/-- Settles O5: each word decoded. -/
theorem sampleWordsDecode : Obligations.SampleWordsDecode := by
  unfold Obligations.SampleWordsDecode
  decide

end Sys2Proof
end

section
/-!
PROOFS. Bits that take part in no rule (30_encoding.md R118, R120): what the assembler reads of block bytes (O6).
-/

namespace Sys2Proof.Machine

/-- All the assembler reads of block bytes are the row fields, the length, the plane bit where there are two planes, and the
bytes behind the header (45_assembler.md R262–R266). -/
theorem assemble_congr {s : State} {d e : Bytes} (hrow : startRowOf d = startRowOf e) (hcount : rowCountOf d = rowCountOf e)
    (hlen : d.length = e.length) (hplane : s.b = 2 → flagPlaneOf d = flagPlaneOf e) (hdata : d.drop 6 = e.drop 6) :
    s.assemble d = s.assemble e := by
  have hchoice : s.choosePlane d = s.choosePlane e := by
    by_cases hb : s.b = 2
    · simp only [State.choosePlane, hplane hb]
    · simp only [State.choosePlane, if_neg hb]
  have hfirst : s.firstRow d = s.firstRow e := by rw [State.firstRow, hrow, State.firstRow]
  have hwant : s.wantBytes d = s.wantBytes e := by
    rw [State.wantBytes, State.endRow, hfirst, hrow, hcount, State.wantBytes, State.endRow]
  have havail : availBytes d = availBytes e := by rw [availBytes, hlen, availBytes]
  have hwrite : s.writeLength d = s.writeLength e := by rw [State.writeLength, hwant, havail, State.writeLength]
  have hbase : s.writeBase d = s.writeBase e := by rw [State.writeBase, hchoice, hfirst, State.writeBase]
  have hevents : s.clampEvents d = s.clampEvents e := by
    rw [State.clampEvents, hrow, hcount, havail, hwant, State.clampEvents]
  have hslice (n : Nat) : slice d 6 (6 + n) = slice e 6 (6 + n) := by
    rw [slice, slice, List.drop_take, List.drop_take, hdata]
  unfold State.assemble
  rw [hevents, hchoice, hwrite, hbase, hslice]

/-- The plane bit of a header is the low bit of its flags (30_encoding.md R104). -/
theorem flagPlaneOf_header (r0 r1 c0 c1 f g : Byte) (data : Bytes) :
    flagPlaneOf (r0 :: r1 :: c0 :: c1 :: f :: g :: data) = (g.getLsbD 0).toNat := by
  have hbit : ∀ b : Byte, (b.extractLsb' 0 1).toNat = (b.getLsbD 0).toNat := by decide
  exact hbit g

/-- Settles O6: no meaning names the ignored fields of its instruction, and the assembler reads none of them. -/
theorem ignoredBitsHaveNoEffect : Obligations.IgnoredBitsHaveNoEffect := by
  refine ⟨fun _ _ _ _ => ⟨rfl, rfl⟩, fun _ _ _ _ _ _ _ => ⟨rfl, rfl⟩, fun r0 r1 c0 c1 f f' g g' data s hg => ?_⟩
  refine assemble_congr rfl rfl rfl (fun hb => ?_) rfl
  rw [flagPlaneOf_header, flagPlaneOf_header, hg hb]

end Sys2Proof.Machine
end

section
/-!
PROOFS. The step (O7): whose turn it is, and that the unit at work runs the instruction its bytes decode to.
-/

namespace Sys2Proof.Machine

/-! ## The turns -/

theorem State.engineFirst_eq_true {h : HostInput} {s : State} :
    s.engineFirst h = true ↔ s.engine ≠ .idle ∧ (0 < h.wait ∨ h.action = .poll) := by
  simp [State.engineFirst, State.busy]

theorem step_of_no_input {s : State} (hs : s.inputs = []) : step s = engineStep s := by
  rw [step, hs]

/-- An input that lets the engine go first has one engine step less to wait. -/
theorem step_of_engineFirst {s : State} {h : HostInput} {rest : List HostInput} (hs : s.inputs = h :: rest)
    (he : s.engineFirst h = true) :
    step s = engineStep (s.setInputs ({ wait := h.wait - 1, action := h.action } :: rest)) := by
  simp only [step, hs, he, if_true]

theorem step_of_host {s : State} {h : HostInput} {rest : List HostInput} (hs : s.inputs = h :: rest)
    (he : ¬ s.engineFirst h = true) : step s = hostAct h.action (s.setInputs rest) := by
  simp only [step, hs, if_neg he]

/-! ## The instruction the unit at work reads -/

theorem engineStep_of_fetch {s t : State} {i : Instr} (h : s.fetch = some (i, t)) : engineStep s = exec i t := by
  rw [engineStep, h]

theorem engineStep_of_idle {s : State} (he : s.engine = .idle) : engineStep s = .next s := by
  simp [engineStep, State.fetch, State.tau, he]

section
variable {s : State} {i : Instr}

theorem fetch_g5 {job : G5Job} {g : G5Run} (he : s.engine = .g5 job g) (hr : g.running = true)
    (hi : decode .g5Cmd (g.src.drop g.gpos) = .ok i) : s.fetch = some (i, s) := by
  obtain ⟨-, ⟨⟩⟩ := eq_ok_of_guard hi
  simp [State.fetch, he, hr, byteAt]

/-- The four length bytes are the same however many bytes of the stream are read with it. -/
theorem u32le_inBytes (s : State) (a : Nat) {n : Nat} (hn : 4 ≤ n) :
    u32le (s.inBytes a n) 0 = u32le (s.inBytes a 4) 0 := by
  have hbyte (k : Nat) (hk : k < 4) : byteAt (s.inBytes a n) k = byteAt (s.inBytes a 4) k := by
    simp [byteAt, State.inBytes, hk, Nat.lt_of_lt_of_le hk hn]
  rw [u32le, hbyte 0 (by omega), hbyte 1 (by omega), hbyte 2 (by omega), hbyte 3 (by omega), u32le]

theorem fetch_framing {fpos : Nat} (he : s.engine = .framing fpos)
    (hi : decode .stream (s.inBytes fpos (s.regs.inLen.toNat - fpos)) = .ok i) : s.fetch = some (i, s) := by
  obtain ⟨hlen, ⟨⟩⟩ := eq_ok_of_guard hi
  rw [inBytes_length] at hlen
  rw [u32le_inBytes s fpos (Nat.le_of_not_lt hlen)]
  simp [State.fetch, he, State.streamLeft, hlen]

theorem fetch_resolving {fpos : Nat} {p : Bytes} (he : s.engine = .resolving fpos p)
    (hi : decode .payload p = .ok i) : s.fetch = some (i, s) := by
  cases hi
  simp [State.fetch, he]

theorem fetch_launched (he : s.engine = .launched)
    (hi : decode .ctrlLaunch (bytes32le (ctrlWord true s.regs.op)) = .ok i) : s.fetch = some (i, s) := by
  rw [decode_ctrlLaunch] at hi
  cases hi
  simp [State.fetch, he]

theorem fetch_drawing {x y : Nat} {work : Memory 24} (he : s.engine = .drawing x y work) (hx : x < s.we) (hy : y < s.he)
    (hi : decode .fmtPixel (bytes32le (s.regRead .fmt)) = .ok i) : s.fetch = some (i, s) := by
  have hi : decodePixel s.regs.bpp = .ok i := (decode_fmtPixel ..).symm.trans hi
  simp [State.fetch, he, hx, hy, hi, Except.toOption]

theorem fetch_rotating {work : Memory 24} (he : s.engine = .rotating work)
    (hi : decode .fmtRotate (bytes32le (s.regRead .fmt)) = .ok i) : s.fetch = some (i, s) := by
  cases (decode_fmtRotate ..).symm.trans hi
  simp [State.fetch, he]

theorem fetch_inflating {fpos : Nat} {z z' : Inflate} (he : s.engine = .inflating fpos z) (hz : z.fetch = some (i, z')) :
    s.fetch = some (i, s.setEngine (.inflating fpos z')) := by
  simp [State.fetch, he, hz]

end

section
variable {z : Inflate} {r : BitReader} {v : Nat} {i : Instr}

theorem Inflate.fetch_header (hm : z.mode = .header) (hr : z.br.bits 3 = .ok (v, r))
    (hi : decode .dflBlock [BitVec.ofNat 8 v] = .ok i) : z.fetch = some (i, z.setReader r) := by
  rw [decode_dflBlock] at hi
  cases hi
  simp [Inflate.fetch, hm, hr]

theorem readSymbol_of_decode {T : HuffCode} {dec : Nat → Except DecodeError Instr} (hr : T.decode z.br = .ok (v, r))
    (hi : dec v = .ok i) : readSymbol T dec z = some (i, z.setReader r) := by
  simp [readSymbol, hr, hi, Except.toOption]

theorem Inflate.fetch_body {lit dist : HuffCode} (hm : z.mode = .body lit dist) :
    z.fetch = readSymbol lit decodeLitSym z := by
  simp only [Inflate.fetch, hm]
  rfl

theorem Inflate.fetch_distance {lit dist : HuffCode} {len : Nat} (hm : z.mode = .distance lit dist len) :
    z.fetch = readSymbol dist decodeDistSym z := by
  simp only [Inflate.fetch, hm]
  rfl

theorem Inflate.fetch_lengths {nlit ndist : Nat} {clt : HuffCode} {lens : List Nat}
    (hm : z.mode = .lengths nlit ndist clt lens) (hl : lens.length < nlit + ndist) :
    z.fetch = readSymbol clt decodeClSym z := by
  simp only [Inflate.fetch, hm, if_pos hl]
  rfl

end

/-! ## The host's turn -/

/-- A write of CTRL is the instruction its value encodes (10_state.md R24). -/
theorem hostAct_ctrlWrite {v : Word} {i : Instr} (hi : decode .ctrlWrite (bytes32le v) = .ok i) (s : State) :
    hostAct (.regWrite 32 0 v) s = exec i s := by
  rw [decode_ctrlWrite] at hi
  cases hi
  rfl

theorem hostAct_poll_idle {s : State} (he : s.engine = .idle) :
    hostAct .poll s = .next (s.respond (.word s.status)) :=
  congrArg Host.Outcome.next (if_neg (State.not_busy_of_idle he))

/-- Settles O7: the engine's turn by the fetch of each unit, the host's by its action. -/
theorem stepRunsTheDecodedInstruction : Obligations.StepRunsTheDecodedInstruction := by
  constructor
  · intro s t hturn
    have hstep : step s = engineStep t := by
      obtain ⟨hs, rfl⟩ | ⟨h, rest, hs, he, hfirst, rfl⟩ := hturn
      · exact step_of_no_input hs
      · exact step_of_engineFirst hs (State.engineFirst_eq_true.2 ⟨he, hfirst⟩)
    have run {i : Instr} {u : State} (h : t.fetch = some (i, u)) : step s = exec i u :=
      hstep.trans (engineStep_of_fetch h)
    refine ⟨hstep, fun he => hstep.trans (engineStep_of_idle he), fun i => ⟨?_, ?_, ?_, ?_, ?_, ?_, ?_, ?_, ?_, ?_⟩⟩
    · exact fun job g he hr hi => run (fetch_g5 he hr hi)
    · exact fun fpos he hi => run (fetch_framing he hi)
    · exact fun fpos p he hi => run (fetch_resolving he hi)
    · exact fun he hi => run (fetch_launched he hi)
    · exact fun x y work he hx hy hi => run (fetch_drawing he hx hy hi)
    · exact fun work he hi => run (fetch_rotating he hi)
    · exact fun fpos z r v he hm hr hi => run (fetch_inflating he (Inflate.fetch_header hm hr hi))
    · intro fpos z r v lit dist he hm hr hv hi
      rw [decode_symLit hv] at hi
      exact run (fetch_inflating he ((Inflate.fetch_body hm).trans (readSymbol_of_decode hr hi)))
    · intro fpos z r v lit dist len he hm hr hv hi
      rw [decode_symDist hv] at hi
      exact run (fetch_inflating he ((Inflate.fetch_distance hm).trans (readSymbol_of_decode hr hi)))
    · intro fpos z r v nlit ndist clt lens he hm hl hr hv hi
      rw [decode_symCl hv] at hi
      exact run (fetch_inflating he ((Inflate.fetch_lengths hm hl).trans (readSymbol_of_decode hr hi)))
  · intro s h rest hs hturn
    have hhost : ¬ s.engineFirst h = true := by
      rw [State.engineFirst_eq_true]
      rintro ⟨he, hfirst⟩
      obtain hidle | ⟨hwait, hpoll⟩ := hturn
      · exact he hidle
      · exact hfirst.elim (by omega) hpoll
    have hstep := step_of_host hs hhost
    refine ⟨hstep, fun v i ha hi => ?_, fun ha => ?_⟩
    · rw [hstep, ha, hostAct_ctrlWrite hi]
    · have hidle : s.engine = .idle := hturn.resolve_right fun hp => hp.2 ha
      rw [hstep, ha, hostAct_poll_idle (s := s.setInputs rest) hidle]
      rfl

end Sys2Proof.Machine
end

section
/-!
PROOFS. The G5 pseudo-instructions (30_encoding.md R126, R127): strings of commands that name bytes, and that the decoder
reads the bytes they name (O14).
-/

namespace Sys2Proof.Machine

/-! ## The command at the cursor -/

theorem command_of_lit {g : G5Run} {n : BitVec 7} (h : decodeG5 (byteAt g.src g.gpos) = .lit n) :
    g.command = g.literal (litLength n) := by
  simp only [G5Run.command, h]

theorem command_of_runB {g : G5Run} {ab : BitVec 2} {n : BitVec 4}
    (h : decodeG5 (byteAt g.src g.gpos) = .runB ab n) : g.command = g.run blackByte (runLength n) := by
  simp only [G5Run.command, h]

theorem command_of_runW {g : G5Run} {ab : BitVec 2} {n : BitVec 4}
    (h : decodeG5 (byteAt g.src g.gpos) = .runW ab n) : g.command = g.run whiteByte (runLength n) := by
  simp only [G5Run.command, h]

/-- A command byte that is a run of `n` bytes `v`. -/
def IsRun (c v : Byte) (n : Nat) : Prop := 1 ≤ n ∧ ∀ g : G5Run, byteAt g.src g.gpos = c → g.command = g.run v n

theorem asmRunB_eq {n : Nat} (h1 : 1 ≤ n) (h16 : n ≤ 16) (ab : BitVec 2) :
    ∃ c, asmRunB n ab = [c] ∧ IsRun c blackByte n := by
  have hn : runLength (BitVec.ofNat 4 (n - 1)) = n := by rw [runLength, BitVec.toNat_ofNat]; omega
  exact ⟨_, rfl, h1, fun g hg => hn ▸ command_of_runB (hg ▸ decodeG5_runB ab _)⟩

theorem asmRunW_eq {n : Nat} (h1 : 1 ≤ n) (h16 : n ≤ 16) (ab : BitVec 2) :
    ∃ c, asmRunW n ab = [c] ∧ IsRun c whiteByte n := by
  have hn : runLength (BitVec.ofNat 4 (n - 1)) = n := by rw [runLength, BitVec.toNat_ofNat]; omega
  exact ⟨_, rfl, h1, fun g hg => hn ▸ command_of_runW (hg ▸ decodeG5_runW ab _)⟩

/-- The byte behind what stands before it. -/
theorem byteAt_length_append (before : Bytes) (c : Byte) (rest : Bytes) :
    byteAt (before ++ c :: rest) before.length = c :=
  byteAt_append_right before (c :: rest) 0

theorem command_run {c v : Byte} {n exp : Nat} (hc : IsRun c v n) {before code out : Bytes}
    (hroom : out.length + n ≤ exp) :
    G5Run.command { src := before ++ c :: code, exp := exp, gpos := before.length, out := out } =
      { src := before ++ c :: code, exp := exp, gpos := before.length + 1, out := out ++ List.replicate n v } := by
  rw [hc.2 _ (byteAt_length_append ..), G5Run.run, Nat.min_eq_left (by dsimp only; omega)]

theorem asmLit_eq (b : Bytes) : asmLit b = (0#1 ++ BitVec.ofNat 7 (b.length - 1)) :: b := rfl

@[simp] theorem asmLit_length (b : Bytes) : (asmLit b).length = b.length + 1 := rfl

theorem command_lit {b : Bytes} (h1 : 1 ≤ b.length) (h128 : b.length ≤ 128) {before code out : Bytes} {exp : Nat}
    (hroom : out.length + b.length ≤ exp) :
    G5Run.command { src := before ++ (asmLit b ++ code), exp := exp, gpos := before.length, out := out } =
      { src := before ++ (asmLit b ++ code), exp := exp, gpos := before.length + (asmLit b).length, out := out ++ b } := by
  have hn : litLength (BitVec.ofNat 7 (b.length - 1)) = b.length := by rw [litLength, BitVec.toNat_ofNat]; omega
  have hcmd : decodeG5 (byteAt (before ++ (asmLit b ++ code)) before.length) =
      .lit (BitVec.ofNat 7 (b.length - 1)) := by
    rw [asmLit_eq, List.cons_append, byteAt_length_append, decodeG5_lit]
  have hdata : slice (before ++ (asmLit b ++ code)) (before.length + 1) (before.length + 1 + b.length) = b := by
    rw [slice, List.drop_take, Nat.add_sub_cancel_left, ← List.drop_drop, List.drop_left]
    exact List.take_left
  rw [command_of_lit (g := ⟨_, exp, before.length, out⟩) hcmd, hn, G5Run.literal, hdata,
    List.take_of_length_le (by dsimp only; omega), asmLit_length, Nat.add_assoc, Nat.add_comm 1]

/-! ## Strings of commands -/

/-- `code` is a string of commands, each with all of its bytes, that name the bytes `d` one after another. -/
inductive Spells : Bytes → Bytes → Prop where
  | nil : Spells [] []
  | run {code d : Bytes} {c v : Byte} {n : Nat} (hc : IsRun c v n) (h : Spells code d) :
      Spells (c :: code) (List.replicate n v ++ d)
  | lit {code d b : Bytes} (h1 : 1 ≤ b.length) (h128 : b.length ≤ 128) (h : Spells code d) :
      Spells (asmLit b ++ code) (b ++ d)

theorem loop_succ {g : G5Run} (hr : g.running = true) (k : Nat) : G5Run.loop (k + 1) g = G5Run.loop k g.command :=
  if_pos hr

theorem loop_of_not_running {g : G5Run} (hr : ¬ g.running = true) (k : Nat) : G5Run.loop k g = g := by
  cases k with
  | zero => rfl
  | succ k => exact if_neg hr

theorem running_iff {g : G5Run} : g.running = true ↔ g.gpos < g.src.length ∧ g.out.length < g.exp := decide_eq_true_iff

/-- The decoder reads a string of commands to its end, and the bytes it names, where these are the room left (41_g5.md R141):
induction over the commands. -/
theorem loop_of_spells {code d : Bytes} (h : Spells code d) {before out : Bytes} {exp k : Nat} (hk : code.length ≤ k)
    (hexp : out.length + d.length = exp) :
    G5Run.loop k { src := before ++ code, exp := exp, gpos := before.length, out := out } =
      { src := before ++ code, exp := exp, gpos := (before ++ code).length, out := out ++ d } := by
  induction h generalizing before out k with
  | nil =>
    rw [loop_of_not_running (by simp [running_iff])]
    simp
  | @run code d c v n hc h ih =>
    obtain ⟨k, rfl⟩ : ∃ j, k = j + 1 := ⟨k - 1, by rw [List.length_cons] at hk; omega⟩
    have hn := hc.1
    rw [List.length_append, List.length_replicate] at hexp
    rw [loop_succ (running_iff.2 ⟨by simp, by dsimp only; omega⟩), command_run hc (by omega)]
    simpa using ih (before := before ++ [c]) (out := out ++ List.replicate n v) (k := k)
      (by simpa using hk) (by simpa [Nat.add_assoc] using hexp)
  | @lit code d b h1 h128 h ih =>
    obtain ⟨k, rfl⟩ : ∃ j, k = j + 1 := ⟨k - 1, by rw [List.length_append, asmLit_length] at hk; omega⟩
    rw [List.length_append] at hexp
    rw [loop_succ (running_iff.2 ⟨by simp, by dsimp only; omega⟩), command_lit h1 h128 (by omega)]
    simpa using ih (before := before ++ asmLit b) (out := out ++ b) (k := k)
      (by rw [List.length_append, asmLit_length] at hk; omega) (by simpa [Nat.add_assoc] using hexp)

/-- A string of commands decodes to the bytes it names, with nothing left over. -/
theorem g5Decode_of_spells {code d : Bytes} (h : Spells code d) :
    (g5Decode code d.length).out = d ∧ (g5Decode code d.length).gpos = code.length := by
  have hloop := loop_of_spells h (before := []) (out := []) (Nat.le_refl _) (Nat.zero_add _)
  rw [List.nil_append] at hloop
  rw [g5Decode, G5Run.begin]
  exact ⟨congrArg G5Run.out hloop, congrArg G5Run.gpos hloop⟩

/-! ## The pseudo-instructions -/

/-- Whole runs of 16 bytes and one of the rest (30_encoding.md R127). -/
theorem spells_fill {asmRun : Nat → Bytes} {v : Byte}
    (hrun : ∀ n, 1 ≤ n → n ≤ 16 → ∃ c, asmRun n = [c] ∧ IsRun c v n) (n : Nat) :
    Spells ((List.replicate (n / 16) (asmRun 16)).flatten ++ (if n % 16 = 0 then [] else asmRun (n % 16)))
      (List.replicate n v) := by
  have rest : Spells (if n % 16 = 0 then [] else asmRun (n % 16)) (List.replicate (n % 16) v) := by
    split_ifs with h0
    · rw [h0]
      exact .nil
    · obtain ⟨c, hc, hr⟩ := hrun (n % 16) (by omega) (by omega)
      rw [hc]
      simpa using Spells.run hr .nil
  have whole (q : Nat) {code d : Bytes} (h : Spells code d) :
      Spells ((List.replicate q (asmRun 16)).flatten ++ code) (List.replicate (16 * q) v ++ d) := by
    induction q with
    | zero => exact h
    | succ q ih =>
      obtain ⟨c, hc, hr⟩ := hrun 16 (by omega) (by omega)
      rw [hc] at ih ⊢
      have := Spells.run hr ih
      rw [← List.append_assoc, List.replicate_append_replicate, Nat.add_comm 16] at this
      exact this
  have hsplit := whole (n / 16) rest
  rwa [List.replicate_append_replicate, Nat.div_add_mod] at hsplit

theorem spells_litChunks {k : Nat} {b : Bytes} (hb : b ≠ []) (hk : b.length ≤ k) : Spells (litChunks k b) b := by
  induction k generalizing b with
  | zero => exact absurd (List.length_eq_zero_iff.1 (Nat.le_zero.1 hk)) hb
  | succ k ih =>
    have hpos : 1 ≤ b.length := List.length_pos_iff.2 hb
    rw [litChunks]
    split_ifs with h128
    · simpa using Spells.lit hpos h128 .nil
    · have htake : (b.take 128).length = 128 := List.length_take_of_le (by omega)
      have hdrop : Spells (litChunks k (b.drop 128)) (b.drop 128) :=
        ih (by simpa using h128) (by rw [List.length_drop]; omega)
      simpa using Spells.lit (b := b.take 128) (by omega) (by omega) hdrop

/-- Settles O14: each pseudo-instruction is a string of commands that names its bytes. -/
theorem g5PseudoInstructionsDecodeToWhatTheyName : Obligations.G5PseudoInstructionsDecodeToWhatTheyName := by
  have hB (n : Nat) := g5Decode_of_spells (spells_fill (fun _ h1 h16 => asmRunB_eq h1 h16 0) n)
  have hW (n : Nat) := g5Decode_of_spells (spells_fill (fun _ h1 h16 => asmRunW_eq h1 h16 0) n)
  simp only [List.length_replicate] at hB hW
  exact ⟨fun n _ => hB n, fun n _ => hW n, fun b hb => g5Decode_of_spells (spells_litChunks hb (Nat.le_refl _))⟩

end Sys2Proof.Machine
end

section
/-!
PROOFS. `zlib.stored` (30_encoding.md R125): the stream of stored blocks is read block by block, and inflates to its content
(O33).
-/

namespace Sys2Proof.Machine

/-! ## The checksum's value (43_inflate.md R216) -/

/-- Both sums are remainders by 65521. -/
theorem feed_lt {a : AdlerSums} (h : a.s1 < 65521 ∧ a.s2 < 65521) (d : Bytes) :
    (a.feed d).s1 < 65521 ∧ (a.feed d).s2 < 65521 := by
  induction d generalizing a with
  | nil => exact h
  | cons b d ih => exact ih ⟨Nat.mod_lt _ (by decide), Nat.mod_lt _ (by decide)⟩

theorem adler32_lt (d : Bytes) : adler32 d < 2 ^ 32 := by
  obtain ⟨h1, h2⟩ := feed_lt (a := AdlerSums.begin) (by decide) d
  rw [adler32, AdlerSums.value]
  omega

/-! ## Reading whole bytes -/

/-- The reader before the bytes `rest`, with `before` behind it. -/
def readerAt (before rest : Bytes) : BitReader := { src := before ++ rest, q := before.length, t := 0 }

theorem bytes_readerAt {d : Bytes} {n : Nat} (hn : d.length = n) (before rest : Bytes) :
    (readerAt before (d ++ rest)).bytes n = .ok (d, readerAt (before ++ d) rest) := by
  have hroom : before.length + n ≤ (before ++ (d ++ rest)).length := by
    rw [List.length_append, List.length_append]
    omega
  have hslice : slice (before ++ (d ++ rest)) before.length (before.length + n) = d := by
    rw [slice, List.drop_take, Nat.add_sub_cancel_left, List.drop_left, ← hn]
    exact List.take_left
  rw [BitReader.bytes, readerAt, if_pos hroom, hslice, readerAt, List.append_assoc, List.length_append, hn]

/-- The first byte of a stored block: BFINAL in bit 0, BTYPE 0 (30_encoding.md R125). -/
def storedFirstByte (last : Bool) : Byte := if last then 0x01 else 0x00

/-- The three header bits of a stored block: BFINAL, then BTYPE 0. -/
theorem bits_storedFirstByte (before rest : Bytes) (last : Bool) :
    let src := before ++ storedFirstByte last :: rest
    (readerAt before (storedFirstByte last :: rest)).bits 1 =
        .ok (last.toNat, { src := src, q := before.length, t := 1 }) ∧
      BitReader.bits 2 { src := src, q := before.length, t := 1 } =
        .ok (0, { src := src, q := before.length, t := 3 }) := by
  cases last <;>
    simp [storedFirstByte, readerAt, BitReader.bits, BitReader.bit, bind, Except.bind, pure, Except.pure]

theorem align_readerAt (before rest : Bytes) : (readerAt before rest).align = readerAt before rest := rfl

/-- Behind the header bits the rest of the byte is passed over. -/
theorem align_behind_header (before rest : Bytes) (b : Byte) :
    BitReader.align { src := before ++ b :: rest, q := before.length, t := 3 } = readerAt (before ++ [b]) rest := by
  simp [BitReader.align, readerAt]

/-! ## Stored blocks -/

/-- LEN and its complement NLEN, the fields before a chunk (30_encoding.md R125). -/
def lengthFields (c : Bytes) : Bytes :=
  bytes16le (BitVec.ofNat 16 c.length) ++ bytes16le (BitVec.ofNat 16 (c.length ^^^ 0xFFFF))

theorem storedBlockBytes_eq (last : Bool) (c : Bytes) :
    storedBlockBytes last c = storedFirstByte last :: (lengthFields c ++ c) := rfl

theorem len_lengthFields {c : Bytes} (hc : c.length ≤ 65535) : (u16le (lengthFields c) 0).toNat = c.length := by
  rw [lengthFields, u16le_bytes16le, BitVec.toNat_ofNat]
  omega

theorem nlen_lengthFields {c : Bytes} (hc : c.length ≤ 65535) :
    (u16le (lengthFields c) 2).toNat = c.length ^^^ 0xFFFF := by
  have hxor : c.length ^^^ 0xFFFF < 2 ^ 16 := Nat.xor_lt_two_pow (by omega) (by decide)
  have hfield : u16le (lengthFields c) 2 = BitVec.ofNat 16 (c.length ^^^ 0xFFFF) := by
    have hnext := u16le_append_right (bytes16le (BitVec.ofNat 16 c.length))
      (bytes16le (BitVec.ofNat 16 (c.length ^^^ 0xFFFF)) ++ []) 0
    rwa [u16le_bytes16le, List.append_nil] at hnext
  rw [hfield, BitVec.toNat_ofNat]
  omega

/-- The fields agree, and the chunk is appended (43_inflate.md R196). -/
theorem storedBlock_eq {c : Bytes} (hc : c.length ≤ 65535) {r : BitReader} {before rest : Bytes}
    (hr : r.align = readerAt before (lengthFields c ++ (c ++ rest))) (out : Bytes) :
    storedBlock r out = .ok (readerAt (before ++ lengthFields c ++ c) rest, out ++ c) := by
  have hfields := bytes_readerAt (d := lengthFields c) (n := 4) rfl before (c ++ rest)
  have hchunk := bytes_readerAt (d := c) rfl (before ++ lengthFields c) rest
  simp only [storedBlock, hr, hfields, bind, Except.bind, len_lengthFields hc, nlen_lengthFields hc, ne_eq,
    not_true, if_false, hchunk]
  rfl

theorem inflateBlocks_stored {c : Bytes} (hc : c.length ≤ 65535) (last : Bool) (n k : Nat) (before rest out : Bytes) :
    inflateBlocks n (k + 1) (readerAt before (storedBlockBytes last c ++ rest)) out =
      if last then .ok (readerAt (before ++ storedBlockBytes last c) rest, out ++ c)
      else inflateBlocks n k (readerAt (before ++ storedBlockBytes last c) rest) (out ++ c) := by
  rw [storedBlockBytes_eq, List.cons_append, List.append_assoc]
  obtain ⟨hfinal, htype⟩ := bits_storedFirstByte before (lengthFields c ++ (c ++ rest)) last
  have hblock := storedBlock_eq hc (align_behind_header before (lengthFields c ++ (c ++ rest)) (storedFirstByte last)) out
  rw [inflateBlocks, hfinal]
  simp only [bind, Except.bind, htype, if_true, hblock, List.append_assoc, List.cons_append, List.nil_append]
  cases last <;> rfl

theorem storedBlocks_cons_cons (c d : Bytes) (cs : List Bytes) :
    storedBlocks (c :: d :: cs) = storedBlockBytes false c ++ storedBlocks (d :: cs) := rfl

/-- The blocks of a list of chunks are read to the end of the last. -/
theorem inflateBlocks_storedBlocks {cs : List Bytes} (hne : cs ≠ []) (hcs : ∀ c ∈ cs, c.length ≤ 65535) (n : Nat)
    {k : Nat} (hk : cs.length ≤ k) (before rest out : Bytes) :
    inflateBlocks n k (readerAt before (storedBlocks cs ++ rest)) out =
      .ok (readerAt (before ++ storedBlocks cs) rest, out ++ cs.flatten) := by
  induction cs generalizing k before out with
  | nil => exact absurd rfl hne
  | cons c cs ih =>
    obtain ⟨k, rfl⟩ : ∃ j, k = j + 1 := ⟨k - 1, by rw [List.length_cons] at hk; omega⟩
    have hc := hcs c List.mem_cons_self
    cases cs with
    | nil => simpa [storedBlocks] using inflateBlocks_stored hc true n k before rest out
    | cons d cs =>
      have htail := ih (List.cons_ne_nil _ _) (fun e he => hcs e (List.mem_cons_of_mem _ he)) (Nat.le_of_succ_le_succ hk)
        (before ++ storedBlockBytes false c) (out ++ c)
      rw [storedBlocks_cons_cons, List.append_assoc, inflateBlocks_stored hc, List.flatten_cons, ← List.append_assoc,
        ← List.append_assoc]
      exact htail

/-! ## The chunks -/

theorem storedChunks_flatten (k : Nat) (c : Bytes) : (storedChunks k c).flatten = c := by
  induction k generalizing c with
  | zero => simp [storedChunks]
  | succ k ih =>
    rw [storedChunks]
    split_ifs
    · simp
    · rw [List.flatten_cons, ih, List.take_append_drop]

theorem storedChunks_ne_nil (k : Nat) (c : Bytes) : storedChunks k c ≠ [] := by
  cases k with
  | zero => exact List.cons_ne_nil _ _
  | succ k =>
    rw [storedChunks]
    split_ifs <;> exact List.cons_ne_nil _ _

theorem storedChunks_length_le (k : Nat) (c : Bytes) : (storedChunks k c).length ≤ k + 1 := by
  induction k generalizing c with
  | zero => simp [storedChunks]
  | succ k ih =>
    rw [storedChunks]
    split_ifs
    · simp
    · simpa using ih _

/-- As many cuts as there are bytes leave no chunk above the block's limit. -/
theorem length_le_of_mem_storedChunks {k : Nat} {c d : Bytes} (hk : c.length ≤ k) (hd : d ∈ storedChunks k c) :
    d.length ≤ 65535 := by
  induction k generalizing c with
  | zero =>
    rw [List.mem_singleton.1 hd]
    omega
  | succ k ih =>
    rw [storedChunks] at hd
    split_ifs at hd with hc
    · rw [List.mem_singleton.1 hd]
      exact hc
    · obtain rfl | hd := List.mem_cons.1 hd
      · simp
      · exact ih (by rw [List.length_drop]; omega) hd

/-- The content is no longer than its blocks. -/
theorem length_flatten_le_storedBlocks (cs : List Bytes) : cs.flatten.length ≤ (storedBlocks cs).length := by
  induction cs with
  | nil => exact Nat.le_refl _
  | cons c cs ih =>
    cases cs with
    | nil =>
      rw [storedBlocks, List.flatten_singleton, storedBlockBytes_eq, List.length_cons, List.length_append]
      omega
    | cons d cs =>
      rw [storedBlocks_cons_cons, List.flatten_cons, List.length_append, List.length_append, storedBlockBytes_eq,
        List.length_cons, List.length_append]
      omega

/-! ## The stream -/

theorem isZlib_asmZlibStored (c : Bytes) : isZlib (asmZlibStored c) = true := by
  simp [isZlib, zlibMagic, asmZlibStored, byteAt]

/-- The trailer is the checksum of the content (43_inflate.md R215). -/
theorem u32be_trailer (c : Bytes) : (u32be (bytes32be (BitVec.ofNat 32 (adler32 c))) 0).toNat = adler32 c := by
  have hread := u32be_bytes32be (BitVec.ofNat 32 (adler32 c)) []
  rw [List.append_nil] at hread
  rw [hread, BitVec.toNat_ofNat, Nat.mod_eq_of_lt (adler32_lt c)]

/-- `inflate` allows for as many blocks as the stream has. -/
theorem storedChunks_length_le_rounds (c : Bytes) :
    (storedChunks c.length c).length ≤ 8 * (asmZlibStored c).length + 1 := by
  have hcuts := storedChunks_length_le c.length c
  have hlen := length_flatten_le_storedBlocks (storedChunks c.length c)
  rw [storedChunks_flatten] at hlen
  simp only [asmZlibStored, List.length_append]
  omega

theorem inflate_asmZlibStored (c : Bytes) : inflate (asmZlibStored c) = .ok c := by
  have hbegin : BitReader.begin (asmZlibStored c) =
      readerAt [0x78, 0x01] (storedBlocks (storedChunks c.length c) ++ bytes32be (BitVec.ofNat 32 (adler32 c))) := rfl
  have hblocks := inflateBlocks_storedBlocks (storedChunks_ne_nil c.length c)
    (fun _ => length_le_of_mem_storedChunks (Nat.le_refl _)) (8 * (asmZlibStored c).length + 1)
    (storedChunks_length_le_rounds c) [0x78, 0x01] (bytes32be (BitVec.ofNat 32 (adler32 c))) []
  have htrailer := bytes_readerAt (d := bytes32be (BitVec.ofNat 32 (adler32 c))) (n := 4) rfl
    ([0x78, 0x01] ++ storedBlocks (storedChunks c.length c)) []
  rw [storedChunks_flatten, List.nil_append, ← hbegin] at hblocks
  rw [List.append_nil] at htrailer
  rw [inflate, hblocks]
  simp only [bind, Except.bind, align_readerAt, htrailer, u32be_trailer, ne_eq, not_true, if_false]
  rfl

/-- Settles O33: the magic stands in front, and the blocks and the trailer are read in turn. -/
theorem storedZlibStreamInflatesToItsContent : Obligations.StoredZlibStreamInflatesToItsContent :=
  fun c => ⟨isZlib_asmZlibStored c, inflate_asmZlibStored c⟩

end Sys2Proof.Machine
end

section
/-!
PROOFS. Frames: what each update leaves unchanged, and that frames compose; from them, what the instructions of the stream
leave unchanged (O45).
-/

namespace Sys2Proof.Machine

/-! ## Frames compose -/

theorem State.sameRegistersBut.trans {l l' : List RegName} {s t u : State} (h : s.sameRegistersBut l t)
    (k : t.sameRegistersBut l' u) : s.sameRegistersBut (l ++ l') u := by
  obtain ⟨hcaps, hregs⟩ := h
  obtain ⟨kcaps, kregs⟩ := k
  refine ⟨kcaps.trans hcaps, fun r hr => ?_⟩
  rw [List.mem_append, not_or] at hr
  exact (kregs r hr.2).trans (hregs r hr.1)

theorem State.sameStatusBut.trans {l l' : List Nat} {s t u : State} (h : s.sameStatusBut l t)
    (k : t.sameStatusBut l' u) : s.sameStatusBut (l ++ l') u := by
  intro i hi
  rw [List.mem_append, not_or] at hi
  exact (k i hi.2).trans (h i hi.1)

theorem State.sameMemory.trans {s t u : State} (h : s.sameMemory t) (k : t.sameMemory u) : s.sameMemory u := by
  obtain ⟨hin, hpb, himg⟩ := h
  obtain ⟨kin, kpb, kimg⟩ := k
  exact ⟨fun a => (kin a).trans (hin a), fun a => (kpb a).trans (hpb a), fun a => (kimg a).trans (himg a)⟩

theorem State.sameHostSide.trans {s t u : State} (h : s.sameHostSide t) (k : t.sameHostSide u) : s.sameHostSide u := by
  obtain ⟨hinputs, hresponses, hfree⟩ := h
  obtain ⟨kinputs, kresponses, kfree⟩ := k
  exact ⟨kinputs.trans hinputs, kresponses.trans hresponses, kfree.trans hfree⟩

/-- All that is left the same by an update that may change some registers and STATUS bits and stores nothing in memory. -/
def State.sameBut (regs : List RegName) (bits : List Nat) (s t : State) : Prop :=
  s.sameRegistersBut regs t ∧ s.sameStatusBut bits t ∧ s.sameMemory t ∧ s.sameHostSide t

theorem State.sameBut.trans {regs regs' : List RegName} {bits bits' : List Nat} {s t u : State}
    (h : s.sameBut regs bits t) (k : t.sameBut regs' bits' u) : s.sameBut (regs ++ regs') (bits ++ bits') u := by
  obtain ⟨hregs, hbits, hmem, hhost⟩ := h
  obtain ⟨kregs, kbits, kmem, khost⟩ := k
  exact ⟨hregs.trans kregs, hbits.trans kbits, hmem.trans kmem, hhost.trans khost⟩

theorem State.sameRegistersBut.mono {l l' : List RegName} {s t : State} (h : s.sameRegistersBut l t) (hl : l ⊆ l') :
    s.sameRegistersBut l' t :=
  ⟨h.1, fun r hr => h.2 r fun k => hr (hl k)⟩

theorem State.sameStatusBut.mono {l l' : List Nat} {s t : State} (h : s.sameStatusBut l t) (hl : l ⊆ l') :
    s.sameStatusBut l' t :=
  fun i hi => h i fun k => hi (hl k)

theorem State.sameBut.mono {regs regs' : List RegName} {bits bits' : List Nat} {s t : State}
    (h : s.sameBut regs bits t) (hr : regs ⊆ regs') (hb : bits ⊆ bits') : s.sameBut regs' bits' t := by
  obtain ⟨hregs, hbits, hmem, hhost⟩ := h
  exact ⟨hregs.mono hr, hbits.mono hb, hmem, hhost⟩

/-- Where no register and no STATUS bit is excepted, the unit alone has moved. -/
theorem State.sameBut.sameButUnit {s t : State} (h : s.sameBut [] [] t) : s.sameButUnit t := by
  obtain ⟨hregs, -, hmem, hhost⟩ := h
  exact ⟨hregs, hmem, hhost⟩

/-! ## The frame of each update -/

/-- STATUS has 32 bits. -/
theorem sameStatusBut_of_lt {l : List Nat} {s t : State}
    (h : ∀ i < 32, i ∉ l → t.status.getLsbD i = s.status.getLsbD i) : s.sameStatusBut l t := by
  intro i hi
  rcases Nat.lt_or_ge i 32 with h32 | h32
  · exact h i h32 hi
  · rw [BitVec.getLsbD_of_ge _ _ h32, BitVec.getLsbD_of_ge _ _ h32]

theorem sameMemory_of_eq {s t : State} (hi : t.inMem = s.inMem) (hp : t.pbMem = s.pbMem) (hg : t.imgMem = s.imgMem) :
    s.sameMemory t :=
  ⟨fun a => congrArg (Memory.read Config.unlistedByte · a) hi, State.pbByte_congr hp, State.imgWord_congr hg⟩

/-- Counting with `f` changes the register `r` and no other (10_state.md R30). -/
def CountsIn (r : RegName) (f : Counters → Counters) : Prop :=
  ∀ (s : State) (r' : RegName), r' ≠ r → (s.count f).regRead r' = s.regRead r'

theorem countsIn_incBlocks : CountsIn .cntBlk Counters.incBlocks :=
  fun _ r hr => by cases r with | cntBlk => exact absurd rfl hr | _ => rfl

theorem countsIn_incRaw : CountsIn .cntCodec0 Counters.incRaw :=
  fun _ r hr => by cases r with | cntCodec0 => exact absurd rfl hr | _ => rfl

theorem countsIn_incG5 : CountsIn .cntCodec1 Counters.incG5 :=
  fun _ r hr => by cases r with | cntCodec1 => exact absurd rfl hr | _ => rfl

theorem countsIn_incSkipped : CountsIn .cntCodec1 Counters.incSkipped :=
  fun _ r hr => by cases r with | cntCodec1 => exact absurd rfl hr | _ => rfl

theorem countsIn_incZfail : CountsIn .cntZfail Counters.incZfail :=
  fun _ r hr => by cases r with | cntZfail => exact absurd rfl hr | _ => rfl

section
variable (s : State)

theorem State.sameBut_setEngine (e : Engine) : s.sameBut [] [] (s.setEngine e) :=
  ⟨⟨rfl, fun r _ => by cases r <;> rfl⟩, fun _ _ => rfl, sameMemory_of_eq rfl rfl rfl, rfl, rfl, rfl⟩

theorem State.sameRegistersBut_of_status {t : State} (h : t = { s with status := t.status, engine := t.engine }) :
    s.sameRegistersBut [.status] t := by
  rw [h]
  refine ⟨rfl, fun r hr => ?_⟩
  cases r with
  | status => exact absurd List.mem_cons_self hr
  | _ => rfl

/-- Of STATUS an event changes its own bit alone (00_scope.md R11). -/
theorem State.sameBut_raise (e : Event) : s.sameBut [.status] [e.code] (s.raise e) := by
  refine ⟨s.sameRegistersBut_of_status rfl, sameStatusBut_of_lt fun i h32 hi => ?_, sameMemory_of_eq rfl rfl rfl, rfl,
    rfl, rfl⟩
  rw [raise_status_bit e s i h32, decide_eq_false (by simpa using hi), Bool.or_false]

theorem State.sameBut_raiseIf (c : Bool) (e : Event) : s.sameBut [.status] [e.code] (s.raiseIf c e) := by
  cases c with
  | false => exact (s.sameBut_setEngine s.engine).mono (List.nil_subset _) (List.nil_subset _)
  | true => exact s.sameBut_raise e

theorem State.sameBut_count {r : RegName} {f : Counters → Counters} (h : CountsIn r f) :
    s.sameBut [r] [] (s.count f) :=
  ⟨⟨rfl, fun r' hr => h s r' (by simpa using hr)⟩, fun _ _ => rfl, sameMemory_of_eq rfl rfl rfl, rfl, rfl, rfl⟩

/-- A block too short for its header is counted and reported, and nothing else (42_resolver.md R174). -/
theorem State.sameBut_skipShort (fpos : Nat) : s.sameBut [.status, .cntCodec1] [5] (s.skipShort fpos) :=
  (((s.sameBut_count countsIn_incSkipped).trans (State.sameBut_raise _ _)).trans (State.sameBut_setEngine _ _)).mono
    (by simp) (by simp [Event.code])

/-- A failed inflate is counted and reported, and nothing else (42_resolver.md R173; 43_inflate.md R218). -/
theorem State.sameBut_inflateFailed (fpos : Nat) : s.sameBut [.status, .cntZfail] [8] (s.inflateFailed fpos) :=
  (((s.sameBut_count countsIn_incZfail).trans (State.sameBut_raise _ _)).trans (State.sameBut_setEngine _ _)).mono
    (by simp) (by simp [Event.code])

end

/-! ## The frames of the stream's instructions -/

section
variable {s t : State}

theorem onG5_sameButUnit {f : G5Run → G5Run} (h : s.onG5 f = .next t) : s.sameButUnit t := by
  obtain ⟨_, _, -, -, rfl⟩ := onG5_eq_next.1 h
  exact (s.sameBut_setEngine _).sameButUnit

theorem onPayload_setEngine_sameButUnit {f : Nat → Bytes → Engine}
    (h : s.onPayload (fun fpos p => s.setEngine (f fpos p)) = .next t) : s.sameButUnit t := by
  obtain ⟨_, _, -, rfl⟩ := onPayload_eq_next.1 h
  exact (s.sameBut_setEngine _).sameButUnit

theorem onInflate_sameBut {ctx : Format} {f : Inflate → Except InflateFail Inflate} (h : s.onInflate ctx f = .next t) :
    s.sameBut [.status, .cntZfail] [8] t := by
  obtain ⟨fpos, _, -, -, ⟨_, -, rfl⟩ | ⟨_, -, rfl⟩⟩ := onInflate_eq_next.1 h
  · exact (s.sameBut_setEngine _).mono (List.nil_subset _) (List.nil_subset _)
  · exact s.sameBut_inflateFailed fpos

/-- A DFL instruction that cannot fail moves the decoder on and does nothing else. -/
theorem onInflate_ok_sameButUnit {ctx : Format} {f : Inflate → Inflate}
    (h : s.onInflate ctx (fun z => .ok (f z)) = .next t) : s.sameButUnit t := by
  obtain ⟨_, _, -, -, ⟨_, -, rfl⟩ | ⟨_, hfail, -⟩⟩ := onInflate_eq_next.1 h
  · exact (s.sameBut_setEngine _).sameButUnit
  · cases hfail

theorem execFrame_eq_next {len : Word} :
    execFrame len s = .next t ↔ ∃ fpos, s.engine = .framing fpos ∧ 4 ≤ s.streamLeft fpos ∧
      s.regs.inLen.toNat ≤ s.caps.inCap ∧
      t = ((s.raiseIf (decide (s.streamLeft (fpos + 4) < len.toNat)) .trunc).count Counters.incBlocks).setEngine
        (.resolving (fpos + 4 + s.frameLength len fpos) (s.inBytes (fpos + 4) (s.frameLength len fpos))) := by
  unfold execFrame
  split
  · rename_i fpos he
    rw [he]
    split_ifs with hleft hcap
    · simp [Nat.not_le.2 hleft]
    · simp [Nat.not_le.2 hcap]
    · simpa [Nat.le_of_not_lt hleft, Nat.le_of_not_lt hcap] using eq_comm
  · rename_i h
    simp only [reduceCtorEq, false_iff]
    rintro ⟨fpos, he, -⟩
    exact h fpos he

theorem execFrame_frame {len : Word} (h : execFrame len s = .next t) :
    s.sameBut [.status, .cntBlk] [3] t ∧ t.cnt.applied = s.cnt.applied := by
  obtain ⟨_, -, -, -, rfl⟩ := execFrame_eq_next.1 h
  exact ⟨((s.sameBut_raiseIf _ .trunc).trans (State.sameBut_count _ countsIn_incBlocks)).trans
    (State.sameBut_setEngine _ _), by simp [Counters.incBlocks]⟩

theorem execPayShort_frame (h : execPayShort s = .next t) :
    s.sameBut [.status, .cntCodec1] [5] t ∧ t.cnt.g5 = s.cnt.g5 := by
  obtain ⟨fpos, _, -, rfl⟩ := onPayload_eq_next.1 h
  exact ⟨s.sameBut_skipShort fpos, rfl⟩

theorem execPayRaw_frame (r c : BitVec 16) (f : BitVec 7) (g : BitVec 8) (h : execPayRaw r c f g s = .next t) :
    s.sameBut [.cntCodec0] [] t ∧ t.cnt.zlib = s.cnt.zlib := by
  obtain ⟨_, _, -, rfl⟩ := onPayload_eq_next.1 h
  exact ⟨(s.sameBut_count countsIn_incRaw).trans (State.sameBut_setEngine _ _), rfl⟩

end

/-- The instructions of the four deflate formats are the DFL instructions. -/
theorem exists_inflateEffect {i : Instr}
    (h : formatOf i = .dflBlock ∨ formatOf i = .symLit ∨ formatOf i = .symDist ∨ formatOf i = .symCl) :
    ∃ f, inflateEffect i = some f := by
  cases i <;> simp [formatOf, inflateEffect] at h ⊢

/-- Settles O45: each instruction by the one thing its unit can answer. -/
theorem streamInstructionsFrame : Obligations.StreamInstructionsFrame := by
  intro s t frame
  refine ⟨?_, ?_, ?_, ?_, ?_, ?_, ?_, ?_, ?_, ?_, ?_, ?_, ?_, ?_⟩
  · exact fun _ h => onG5_sameButUnit h
  · exact fun _ _ h => onG5_sameButUnit h
  · exact fun _ _ h => onG5_sameButUnit h
  · exact fun h => onPayload_setEngine_sameButUnit h
  · exact fun h => onPayload_setEngine_sameButUnit h
  · exact fun h => onPayload_setEngine_sameButUnit h
  · exact fun _ _ _ _ h => onPayload_setEngine_sameButUnit h
  · exact fun _ h => onInflate_ok_sameButUnit h
  · exact fun _ h => onInflate_ok_sameButUnit h
  · exact fun h => onInflate_ok_sameButUnit h
  · exact fun _ h => execFrame_frame h
  · exact fun h => execPayShort_frame h
  · exact execPayRaw_frame
  · intro i hi h
    obtain ⟨f, hf⟩ := exists_inflateEffect hi
    exact onInflate_sameBut ((exec_eq_onInflate hf s).symm.trans h)

end Sys2Proof.Machine
end

section
/-!
PROOFS. The G5 commands (41_g5.md R142–R144) and the loop that runs them (R141): what a command does (O8, O9), the bounds of a
decode (O10), what it never reads (O11), and that the engine's steps are the loop (O12).
-/

namespace Sys2Proof.Machine

/-! ## One command -/

theorem onG5_of_running {s : State} {job : G5Job} {g : G5Run} (he : s.engine = .g5 job g)
    (hpos : g.gpos < g.src.length) (hroom : g.out.length < g.exp) (f : G5Run → G5Run) :
    s.onG5 f = .next (s.setEngine (.g5 job (f g))) :=
  onG5_eq_next.2 ⟨job, g, he, running_iff.2 ⟨hpos, hroom⟩, rfl⟩

/-- Settles O8: a run is `G5Run.run` of its colour, and a run command's byte is known by its range. -/
theorem runsAppendTheirColourClamped : Obligations.RunsAppendTheirColourClamped := by
  have hrangeB : ∀ c : Byte, c &&& 0xC0 = 0x80 → 0x80 ≤ c.toNat ∧ c.toNat < 0xC0 := by decide
  have hrangeW : ∀ c : Byte, c &&& 0xC0 = 0xC0 → 0xC0 ≤ c.toNat := by decide
  refine ⟨fun ab n s job g he hpos hroom => ?_, fun c hc => ?_, fun c hc => ?_⟩
  · exact ⟨onG5_of_running he hpos hroom _, onG5_of_running he hpos hroom _⟩
  · obtain ⟨-, hrunB, -, -⟩ := everyByteIsOneG5Command c
    exact ⟨_, hrunB (hrangeB c hc).1 (hrangeB c hc).2⟩
  · obtain ⟨-, -, hrunW, -⟩ := everyByteIsOneG5Command c
    exact ⟨_, hrunW (hrangeW c hc)⟩

theorem slice_length (b : Bytes) (i n : Nat) : (slice b i (i + n)).length = min n (b.length - i) := by
  simp only [slice, List.length_drop, List.length_take]
  omega

theorem getElem?_slice {b : Bytes} {i n k : Nat} (hk : k < n) : (slice b i (i + n))[k]? = b[i + k]? := by
  rw [slice, List.getElem?_drop, List.getElem?_take_of_lt (Nat.add_lt_add_left hk i)]

theorem literal_length (n : Nat) (g : G5Run) :
    (g.literal n).out.length =
      g.out.length + min (min n (g.src.length - (g.gpos + 1))) (g.exp - g.out.length) := by
  simp only [G5Run.literal, List.length_append, List.length_take, slice_length]
  omega

/-- The bytes a literal appends are those of the source behind the command byte. -/
theorem literal_getElem? {n i : Nat} {g : G5Run} (hi : g.out.length + i < (g.literal n).out.length) :
    (g.literal n).out[g.out.length + i]? = g.src[g.gpos + 1 + i]? := by
  rw [literal_length] at hi
  simp only [G5Run.literal]
  rw [List.getElem?_append_right (Nat.le_add_right ..), Nat.add_sub_cancel_left, List.getElem?_take_of_lt (by omega),
    getElem?_slice (by omega)]

/-- Settles O9: a literal is `G5Run.literal`, whose bytes are a slice of the source cut to the room left. -/
theorem literalCopiesWhatIsThere : Obligations.LiteralCopiesWhatIsThere := by
  have hrange : ∀ c : Byte, c &&& 0x80 = 0 → c.toNat < 0x80 := by decide
  refine ⟨fun n s job g he hpos hroom => ?_, fun c hc => ?_⟩
  · exact ⟨g.literal (litLength n), onG5_of_running he hpos hroom _, rfl, rfl, rfl, literal_length _ g,
      fun i hi => List.getElem?_append_left hi, fun i => literal_getElem?⟩
  · obtain ⟨hlit, -⟩ := everyByteIsOneG5Command c
    exact hlit (hrange c hc)

/-- By its byte a command is a run, or a literal of at most 128 bytes (30_encoding.md R107–R109). -/
theorem command_of_byte (c : Byte) :
    (∃ v n, ∀ g : G5Run, byteAt g.src g.gpos = c → g.command = g.run v n) ∨
      (∃ n, n ≤ 128 ∧ ∀ g : G5Run, byteAt g.src g.gpos = c → g.command = g.literal n) := by
  have hcmd := decodeG5_eq c
  split_ifs at hcmd
  · exact .inl ⟨_, _, fun g hg => command_of_runW ((congrArg decodeG5 hg).trans hcmd)⟩
  · exact .inl ⟨_, _, fun g hg => command_of_runB ((congrArg decodeG5 hg).trans hcmd)⟩
  · exact .inr ⟨_, Nat.succ_le_of_lt (BitVec.isLt _), fun g hg => command_of_lit ((congrArg decodeG5 hg).trans hcmd)⟩

/-- Every command moves the cursor, by at most a command byte and 128 bytes (41_g5.md R149, R150). -/
theorem command_gpos (g : G5Run) : g.gpos < g.command.gpos ∧ g.command.gpos ≤ g.gpos + 129 := by
  obtain ⟨v, n, h⟩ | ⟨n, hn, h⟩ := command_of_byte (byteAt g.src g.gpos)
  · rw [h g rfl, G5Run.run]
    exact ⟨Nat.lt_succ_self _, Nat.add_le_add_left (by decide) _⟩
  · rw [h g rfl, G5Run.literal]
    dsimp only
    omega

/-! ## The loop -/

theorem loop_keeps (k : Nat) (g : G5Run) :
    (G5Run.loop k g).src = g.src ∧ (G5Run.loop k g).exp = g.exp ∧
      (g.out.length ≤ g.exp → (G5Run.loop k g).out.length ≤ g.exp) := by
  induction k generalizing g with
  | zero => exact ⟨rfl, rfl, id⟩
  | succ k ih =>
    by_cases hr : g.running = true
    · obtain ⟨hsrc, hexp, hout⟩ := command_keeps g
      obtain ⟨isrc, iexp, iout⟩ := ih g.command
      rw [loop_succ hr]
      rw [hexp] at iexp iout
      exact ⟨isrc.trans hsrc, iexp, fun h => iout (hout h)⟩
    · rw [loop_of_not_running hr]
      exact ⟨rfl, rfl, id⟩

/-- The cursor passes the end by no more than the literal a command before the end declares (41_g5.md R149). -/
theorem loop_gpos_le (k : Nat) {g : G5Run} (hg : g.gpos ≤ g.src.length + 128) :
    (G5Run.loop k g).gpos ≤ g.src.length + 128 := by
  induction k generalizing g with
  | zero => exact hg
  | succ k ih =>
    by_cases hr : g.running = true
    · obtain ⟨hsrc, -⟩ := command_keeps g
      have hpos := (running_iff.1 hr).1
      have hmove := (command_gpos g).2
      rw [loop_succ hr, ← hsrc]
      exact ih (by rw [hsrc]; omega)
    · rw [loop_of_not_running hr]
      exact hg

/-- As many rounds as there are source bytes left end the loop: each moves the cursor (41_g5.md R150). -/
theorem loop_ends {k : Nat} {g : G5Run} (hk : g.src.length ≤ g.gpos + k) : (G5Run.loop k g).running = false := by
  induction k generalizing g with
  | zero =>
    rw [← Bool.not_eq_true, G5Run.loop, running_iff]
    omega
  | succ k ih =>
    by_cases hr : g.running = true
    · obtain ⟨hsrc, -⟩ := command_keeps g
      have hmove := (command_gpos g).1
      rw [loop_succ hr]
      exact ih (by rw [hsrc]; omega)
    · rw [loop_of_not_running hr]
      exact Bool.eq_false_of_not_eq_true hr

/-- Settles O10: the three bounds of the loop, from its start. -/
theorem g5DecodeIsBounded : Obligations.G5DecodeIsBounded := by
  intro src exp
  obtain ⟨-, -, hout⟩ := loop_keeps src.length (G5Run.begin src exp)
  exact ⟨hout (Nat.zero_le _), loop_gpos_le _ (Nat.zero_le _), loop_ends (Nat.le_add_left ..)⟩

/-! ## Bytes behind the source -/

/-- The same decode with more bytes behind its source. -/
def G5Run.withTail (tail : Bytes) (g : G5Run) : G5Run := { g with src := g.src ++ tail }

theorem run_withTail (v : Byte) (n : Nat) (tail : Bytes) (g : G5Run) :
    (g.withTail tail).run v n = (g.run v n).withTail tail := rfl

/-- Bytes behind a string add nothing to a slice but at its end, and to a slice that ends inside the string nothing. -/
theorem slice_append (b tail : Bytes) (i j : Nat) :
    ∃ more, slice (b ++ tail) i j = slice b i j ++ more ∧ (j ≤ b.length → more = []) := by
  refine ⟨(tail.take (j - b.length)).drop (i - (b.take j).length), ?_, fun h => ?_⟩
  · rw [slice, List.take_append, List.drop_append, slice]
  · rw [Nat.sub_eq_zero_of_le h, List.take_zero, List.drop_nil]

/-- A literal that ends inside the source, or that fills the output, copies the same bytes whatever follows. -/
theorem literal_withTail {n : Nat} {g : G5Run}
    (h : (g.literal n).gpos ≤ g.src.length ∨ (g.literal n).out.length = g.exp) (tail : Bytes) :
    (g.withTail tail).literal n = (g.literal n).withTail tail := by
  have hdata : (slice (g.src ++ tail) (g.gpos + 1) (g.gpos + 1 + n)).take (g.exp - g.out.length) =
      (slice g.src (g.gpos + 1) (g.gpos + 1 + n)).take (g.exp - g.out.length) := by
    obtain ⟨more, hmore, hnil⟩ := slice_append g.src tail (g.gpos + 1) (g.gpos + 1 + n)
    rw [hmore]
    obtain hinside | hfull := h
    · rw [hnil hinside, List.append_nil]
    · rw [literal_length] at hfull
      exact List.take_append_of_le_length (by rw [slice_length]; omega)
  simp only [G5Run.literal, G5Run.withTail, hdata]

/-- A command whose byte is there does the same whatever follows, where it ends inside the source or fills the output. -/
theorem command_withTail {g : G5Run} (hpos : g.gpos < g.src.length)
    (h : g.command.gpos ≤ g.src.length ∨ g.command.out.length = g.exp) (tail : Bytes) :
    (g.withTail tail).command = g.command.withTail tail := by
  have hbyte : byteAt (g.withTail tail).src (g.withTail tail).gpos = byteAt g.src g.gpos := by
    simp [byteAt, G5Run.withTail, List.getElem?_append_left hpos]
  obtain ⟨v, n, hcmd⟩ | ⟨n, -, hcmd⟩ := command_of_byte (byteAt g.src g.gpos)
  · rw [hcmd g rfl, hcmd _ hbyte, run_withTail]
  · rw [hcmd g rfl] at h ⊢
    rw [hcmd _ hbyte, literal_withTail h]

theorem not_running_of_full {g : G5Run} (h : g.out.length = g.exp) : ¬ g.running = true := by
  rw [running_iff]
  omega

/-- A loop that fills its output does the same with any bytes behind the source and any more rounds (41_g5.md R145): a command
that passes the end of the source is the last, so it fills the output. -/
theorem loop_withTail {k k' : Nat} {g : G5Run} (hk : k ≤ k') (hfull : (G5Run.loop k g).out.length = g.exp)
    (tail : Bytes) : G5Run.loop k' (g.withTail tail) = (G5Run.loop k g).withTail tail := by
  have stopped {j : Nat} {g : G5Run} (h : g.out.length = g.exp) :
      G5Run.loop j (g.withTail tail) = g.withTail tail :=
    loop_of_not_running (not_running_of_full (g := g.withTail tail) h) j
  induction k generalizing k' g with
  | zero => exact stopped hfull
  | succ k ih =>
    by_cases hr : g.running = true
    · obtain ⟨j, rfl⟩ : ∃ j, k' = j + 1 := ⟨k' - 1, by omega⟩
      obtain ⟨hsrc, hexp, -⟩ := command_keeps g
      obtain ⟨hpos, hroom⟩ := running_iff.1 hr
      rw [loop_succ hr] at hfull ⊢
      have hend : g.command.gpos ≤ g.src.length ∨ g.command.out.length = g.exp := by
        refine or_iff_not_imp_left.2 fun hpast => ?_
        have hstop : ¬ g.command.running = true := by rw [running_iff, hsrc]; omega
        rwa [loop_of_not_running hstop] at hfull
      have hrun : (g.withTail tail).running = true :=
        running_iff.2 ⟨by rw [G5Run.withTail, List.length_append]; exact Nat.lt_add_right _ hpos, hroom⟩
      rw [loop_succ hrun, command_withTail hpos hend]
      exact ih (Nat.le_of_succ_le_succ hk) (hexp ▸ hfull)
    · rw [loop_of_not_running hr] at hfull ⊢
      exact stopped hfull

/-- Settles O11: the loop over the longer source is the loop over the shorter with its tail behind it. -/
theorem g5TrailingInputIsNeverRead : Obligations.G5TrailingInputIsNeverRead := by
  intro src tail exp hfull
  have hloop : g5Decode (src ++ tail) exp = (g5Decode src exp).withTail tail :=
    loop_withTail (by rw [List.length_append]; exact Nat.le_add_right ..) hfull tail
  rw [hloop]
  exact ⟨rfl, rfl⟩

/-! ## The engine's steps -/

theorem State.setEngine_self {s : State} {e : Engine} (he : s.engine = e) : s.setEngine e = s := by
  subst he
  rfl

theorem State.setEngine_setEngine (s : State) (e e' : Engine) : (s.setEngine e).setEngine e' = s.setEngine e' := rfl

/-- One step of the engine is one round of the loop. -/
theorem engineStep_command {s : State} {job : G5Job} {g : G5Run} (he : s.engine = .g5 job g) (hr : g.running = true) :
    engineStep s = .next (s.setEngine (.g5 job g.command)) := by
  have hfetch : s.fetch = some (decodeG5 (byteAt g.src g.gpos), s) := by simp [State.fetch, he, hr]
  rw [engineStep_of_fetch hfetch, exec_decodeG5 he hr]

theorem engineRun_loop (n : Nat) {s : State} {job : G5Job} {g : G5Run} (he : s.engine = .g5 job g) :
    ∃ k, k ≤ n ∧ engineRun k s = .next (s.setEngine (.g5 job (G5Run.loop n g))) := by
  induction n generalizing s g with
  | zero => exact ⟨0, Nat.le_refl _, congrArg Host.Outcome.next (State.setEngine_self he).symm⟩
  | succ n ih =>
    by_cases hr : g.running = true
    · obtain ⟨k, hk, hrun⟩ := ih (s := s.setEngine (.g5 job g.command)) rfl
      refine ⟨k + 1, Nat.succ_le_succ hk, ?_⟩
      rw [engineRun, engineStep_command he hr, andThen_of_next, hrun, State.setEngine_setEngine, loop_succ hr]
    · rw [loop_of_not_running hr]
      exact ⟨0, Nat.zero_le _, congrArg Host.Outcome.next (State.setEngine_self he).symm⟩

/-- Settles O12: as many steps as rounds of the loop. -/
theorem g5StepsRunTheLoop : Obligations.G5StepsRunTheLoop := fun _ _ g he => engineRun_loop g.src.length he

end Sys2Proof.Machine
end

section
/-!
PROOFS. The end of a G5 decode (41_g5.md R141; 42_resolver.md R175; 47_host_operations.md R349, R350): what it records, where
the bytes go and what it leaves unchanged (O13).
-/

namespace Sys2Proof.Machine

/-! ## STATUS at the end of an operation -/

/-- Completion changes BUSY and DONE only (47_host_operations.md R350). -/
theorem complete_status_bit (s : State) {k : Nat} (h32 : k < 32) (h0 : k ≠ 0) (h1 : k ≠ 1) :
    s.complete.status.getLsbD k = s.status.getLsbD k := by
  have hmasks : ∀ k < 32, k ≠ 0 → k ≠ 1 → (~~~busyBit).getLsbD k = true ∧ doneBit.getLsbD k = false := by decide
  obtain ⟨hbusy, hdone⟩ := hmasks k h32 h0 h1
  rw [State.complete_status, BitVec.getLsbD_or, BitVec.getLsbD_and, hbusy, hdone, Bool.and_true, Bool.or_false]

theorem complete_busyBit (s : State) : s.complete.status.getLsbD 0 = false := by simp [busyBit, doneBit]

theorem complete_doneBit (s : State) : s.complete.status.getLsbD 1 = true := by simp [doneBit]

theorem complete_sameStatusBut (s : State) : s.sameStatusBut [0, 1] s.complete :=
  sameStatusBut_of_lt fun i h32 hi => complete_status_bit s h32 (by rintro rfl; simp at hi) (by rintro rfl; simp at hi)

theorem complete_sameRegisters (s : State) : s.sameRegistersBut [.status] s.complete :=
  s.sameRegistersBut_of_status rfl

/-- An event raised where a condition holds adds the condition to its bit. -/
theorem raiseIf_status_bit (c : Bool) (e : Event) (s : State) :
    (s.raiseIf c e).status.getLsbD e.code = (s.status.getLsbD e.code || c) := by
  have hcode : e.code < 32 := by cases e <;> decide
  cases c with
  | false => exact (Bool.or_false _).symm
  | true => rw [State.raiseIf, if_pos rfl, raise_status_bit e s _ hcode, decide_eq_true rfl]

/-! ## The result of a decode -/

/-- The result registers and the event change three registers and one STATUS bit (10_state.md R32). -/
theorem State.sameBut_recordG5 (g : G5Run) (s : State) : s.sameBut [.status, .g5Out, .g5In] [10] (s.recordG5 g) := by
  have hresult : s.sameBut [.g5Out, .g5In] [] (s.setG5Result g.out.length g.gpos) := by
    refine ⟨⟨rfl, fun r hr => ?_⟩, fun _ _ => rfl, sameMemory_of_eq rfl rfl rfl, rfl, rfl, rfl⟩
    cases r with
    | g5Out => simp at hr
    | g5In => simp at hr
    | _ => rfl
  exact (hresult.trans (State.sameBut_raiseIf _ _ _)).mono (by simp) (by simp [Event.code])

/-- What every G5 decode records at its end (41_g5.md R141). -/
theorem recordG5_results (g : G5Run) (s : State) :
    (s.recordG5 g).g5Out = BitVec.ofNat 32 g.out.length ∧
    (s.recordG5 g).g5In = BitVec.ofNat 32 (min g.gpos 0xFFFFFFFF) ∧
    (s.recordG5 g).status.getLsbD 10 = (s.status.getLsbD 10 || decide (g.out.length < g.exp)) :=
  ⟨by simp [State.recordG5], by simp [State.recordG5], raiseIf_status_bit _ .g5short _⟩

/-! ## Where the bytes go -/

theorem engineStep_finishG5 {s : State} {job : G5Job} {g : G5Run} (he : s.engine = .g5 job g) (hr : g.running = false) :
    engineStep s = s.finishG5 job g := by
  simp [engineStep, State.fetch, State.tau, he, hr]

/-- The G5 operation stores its bytes at the start of PB and completes (47_host_operations.md R349). -/
theorem finishG5_standalone {s : State} {g : G5Run} (hle : g.out.length ≤ s.caps.pbCap) :
    s.finishG5 .standalone g = .next ((s.recordG5 g).setPbBytes 0 g.out).complete := by
  rw [State.finishG5, enginePbWrite_of_le (by simpa [State.recordG5] using hle), andThen_of_next]

theorem pbByte_setPbBytes_inside {s : State} {vs : Bytes} {i : Nat} (hi : i < vs.length) :
    some ((s.setPbBytes 0 vs).pbByte i) = vs[i]? := by
  have hread := Memory.read_write_inside (d := Config.unlistedByte) (m := s.pbMem) (a := 0) hi
  rw [Nat.zero_add] at hread
  rw [List.getElem?_eq_getElem hi]
  exact congrArg some hread

/-- Settles O13: both ends are what is recorded and one update more, and each has its frame. -/
theorem endOfG5DecodeRecordsItsResult : Obligations.EndOfG5DecodeRecordsItsResult := by
  refine ⟨fun s g he hr hle => ?_, fun s fpos header g he hr => ?_⟩
  · obtain ⟨hout, hin, hshort⟩ := recordG5_results g s
    obtain ⟨hregs, hbits, ⟨hinMem, hpb, himg⟩, hhost⟩ := s.sameBut_recordG5 g
    refine ⟨_, (engineStep_finishG5 he hr).trans (finishG5_standalone hle), rfl, hout, hin,
      fun i hi => pbByte_setPbBytes_inside hi, fun a ha => ?_, hinMem, himg, complete_busyBit _, complete_doneBit _, ?_,
      ?_, ?_, hhost⟩
    · exact (Memory.read_write_outside (.inr (by omega))).trans (hpb a)
    · exact (complete_status_bit _ (by decide) (by decide) (by decide)).trans hshort
    · exact (hbits.trans (complete_sameStatusBut _)).mono (by simp)
    · exact ((hregs.trans (setPbBytes_sameRegisters 0 g.out _)).trans (complete_sameRegisters _)).mono (by simp)
  · obtain ⟨hout, hin, hshort⟩ := recordG5_results g s
    obtain ⟨hregs, hbits, hmem, hhost⟩ :=
      (s.sameBut_recordG5 g).trans ((State.sameBut_count _ countsIn_incG5).trans
        (State.sameBut_setEngine _ (.dispatching fpos (header ++ g.out))))
    exact ⟨_, engineStep_finishG5 he hr, rfl, hout, hin, by simp [State.recordG5, Counters.incG5], hshort, hbits, hregs,
      hmem, hhost⟩

end Sys2Proof.Machine
end

section
/-!
PROOFS. The resolver: the class of a payload, tested in the order of 42_resolver.md R171 (O4), and the step of each class
(O18, O19, O20).
-/

namespace Sys2Proof.Machine

/-! ## The class of a payload -/

theorem zlibMagic_iff {p : Bytes} {flg : Byte} :
    zlibMagic p flg = true ↔ 2 ≤ p.length ∧ p[0]? = some 0x78 ∧ p[1]? = some flg := by
  match p with
  | [] => simp [zlibMagic]
  | [_] => simp [zlibMagic]
  | _ :: _ :: _ => simp [zlibMagic, byteAt]

theorem isZlib_eq_false_iff {p : Bytes} :
    isZlib p = false ↔ ¬ zlibMagic p 0x01 = true ∧ ¬ zlibMagic p 0x9C = true ∧ ¬ zlibMagic p 0xDA = true := by
  simp [isZlib, and_assoc]

/-- A payload with one of the three magics has the class of that magic (42_resolver.md R172). -/
theorem decodePayload_of_isZlib {p : Bytes} (hz : isZlib p = true) :
    decodePayload p = .payZlib7801 ∨ decodePayload p = .payZlib789C ∨ decodePayload p = .payZlib78DA := by
  unfold decodePayload
  by_cases h01 : zlibMagic p 0x01 = true
  · exact .inl (if_pos h01)
  by_cases h9C : zlibMagic p 0x9C = true
  · exact .inr (.inl (by rw [if_neg h01, if_pos h9C]))
  by_cases hDA : zlibMagic p 0xDA = true
  · exact .inr (.inr (by rw [if_neg h01, if_neg h9C, if_pos hDA]))
  · rw [isZlib_eq_false_iff.2 ⟨h01, h9C, hDA⟩] at hz
    cases hz

/-- A payload without a magic is classed by its length and its format bit (42_resolver.md R174, R175, R177). -/
theorem decodePayload_of_not_isZlib {p : Bytes} (hz : isZlib p = false) :
    decodePayload p =
      if p.length < 6 then .payShort
      else if (byteAt p 4).getLsbD 0 then
        .payG5 (u16le p 0) (u16le p 2) ((byteAt p 4).extractLsb' 1 7) (byteAt p 5)
      else .payRaw (u16le p 0) (u16le p 2) ((byteAt p 4).extractLsb' 1 7) (byteAt p 5) := by
  obtain ⟨h01, h9C, hDA⟩ := isZlib_eq_false_iff.1 hz
  rw [decodePayload, if_neg h01, if_neg h9C, if_neg hDA]

section
variable {p : Bytes} (hz : isZlib p = false)
include hz

theorem decodePayload_short (hlen : p.length < 6) : decodePayload p = .payShort := by
  rw [decodePayload_of_not_isZlib hz, if_pos hlen]

theorem decodePayload_g5 (hlen : 6 ≤ p.length) (hbit : (byteAt p 4).getLsbD 0 = true) :
    decodePayload p = .payG5 (u16le p 0) (u16le p 2) ((byteAt p 4).extractLsb' 1 7) (byteAt p 5) := by
  rw [decodePayload_of_not_isZlib hz, if_neg (Nat.not_lt.2 hlen), if_pos hbit]

theorem decodePayload_raw (hlen : 6 ≤ p.length) (hbit : (byteAt p 4).getLsbD 0 = false) :
    decodePayload p = .payRaw (u16le p 0) (u16le p 2) ((byteAt p 4).extractLsb' 1 7) (byteAt p 5) := by
  rw [decodePayload_of_not_isZlib hz, if_neg (Nat.not_lt.2 hlen), if_neg (Bool.eq_false_iff.1 hbit)]

end

/-- Two bytes and one magic only: the second byte tells the magics apart. -/
theorem not_zlibMagic_of_zlibMagic {p : Bytes} {flg flg' : Byte} (h : zlibMagic p flg = true) (hne : flg ≠ flg') :
    ¬ zlibMagic p flg' = true := by
  obtain ⟨-, -, h⟩ := zlibMagic_iff.1 h
  rw [zlibMagic_iff, h]
  rintro ⟨-, -, h'⟩
  exact hne (Option.some.inj h')

/-- Settles O4: the magics exclude each other, and behind them length and format bit decide. -/
theorem payloadClassifiedInOrder : Obligations.PayloadClassifiedInOrder := by
  intro p magic
  have hmagic (flg : Byte) : magic flg ↔ zlibMagic p flg = true := zlibMagic_iff.symm
  simp only [hmagic]
  refine ⟨fun h01 => ?_, fun h9C => ?_, fun hDA => ?_, fun h01 h9C hDA => ?_⟩
  · rw [decodePayload, if_pos h01]
  · rw [decodePayload, if_neg (not_zlibMagic_of_zlibMagic h9C (by decide)), if_pos h9C]
  · rw [decodePayload, if_neg (not_zlibMagic_of_zlibMagic hDA (by decide)),
      if_neg (not_zlibMagic_of_zlibMagic hDA (by decide)), if_pos hDA]
  · have hz : isZlib p = false := isZlib_eq_false_iff.2 ⟨h01, h9C, hDA⟩
    refine ⟨decodePayload_short hz, fun r0 r1 c0 c1 format flags data hp => ?_⟩
    have hlen : 6 ≤ p.length := by rw [hp]; exact Nat.le_add_left ..
    subst hp
    exact ⟨decodePayload_g5 hz hlen, decodePayload_raw hz hlen⟩

/-! ## The step of each class -/

section
variable {s : State} {fpos : Nat} {p : Bytes} (he : s.engine = .resolving fpos p)
include he

theorem onPayload_of_resolving (f : Nat → Bytes → State) : s.onPayload f = .next (f fpos p) :=
  onPayload_eq_next.2 ⟨fpos, p, he, rfl⟩

/-- The resolver's step is the class of its payload, executed. -/
theorem engineStep_resolving : engineStep s = exec (decodePayload p) s :=
  engineStep_of_fetch (fetch_resolving he rfl)

end

/-- Settles O18: the class of a short payload is PAY.SHORT, which skips it. -/
theorem shortPayloadIsSkipped : Obligations.ShortPayloadIsSkipped := by
  intro s fpos p he u
  have hexec : exec .payShort s = .next u := onPayload_of_resolving he _
  refine ⟨hexec, fun hlen hz => ?_⟩
  rw [engineStep_resolving he, decodePayload_short hz hlen, hexec]

/-- Settles O19: the class of a payload with a header and a clear format bit is PAY.RAW, whatever its fields. -/
theorem rawPayloadPassesUnchanged : Obligations.RawPayloadPassesUnchanged := by
  intro s fpos p he u
  have hexec r c f g : exec (.payRaw r c f g) s = .next u := onPayload_of_resolving he _
  refine ⟨hexec, fun hlen hz hbit => ?_⟩
  rw [engineStep_resolving he, decodePayload_raw hz hlen hbit, hexec]

/-- A G5 payload keeps its first 6 bytes and decodes those behind them (42_resolver.md R175). -/
theorem exec_payG5 {s : State} {fpos : Nat} {p : Bytes} (he : s.engine = .resolving fpos p) (r c : BitVec 16)
    (f : BitVec 7) (g : BitVec 8) :
    exec (.payG5 r c f g) s = .next (s.setEngine (.g5 (.block fpos (p.take 6))
      { src := p.drop 6, exp := c.toNat * s.bpr, gpos := 0, out := [] })) := by
  have hdata : slice p 6 p.length = p.drop 6 := by rw [slice, List.take_length]
  rw [← hdata]
  exact onPayload_of_resolving he _

/-- Settles O20: the three magics have one effect, and the header fields of a G5 payload are its first six bytes. -/
theorem codedPayloadsStartTheirDecoders : Obligations.CodedPayloadsStartTheirDecoders := by
  intro s fpos p he u
  have h01 : exec .payZlib7801 s = .next u := onPayload_of_resolving he _
  have h9C : exec .payZlib789C s = .next u := onPayload_of_resolving he _
  have hDA : exec .payZlib78DA s = .next u := onPayload_of_resolving he _
  refine ⟨h01, h9C, hDA, fun hz => ?_, exec_payG5 he, ?_⟩
  · rw [engineStep_resolving he]
    obtain h | h | h := decodePayload_of_isZlib hz
    · rw [h, h01]
    · rw [h, h9C]
    · rw [h, hDA]
  · intro r0 r1 c0 c1 format flags data hp hz hbit
    have hlen : 6 ≤ p.length := by rw [hp]; exact Nat.le_add_left ..
    subst hp
    rw [engineStep_resolving he, decodePayload_g5 hz hlen hbit, exec_payG5 he, u16le_toNat]
    rfl

end Sys2Proof.Machine
end

section
/-!
PROOFS. The deflate instructions where their unit reads them (43_inflate.md R218): each goes on or fails the payload (O21).
-/

namespace Sys2Proof.Machine

/-- The decoder reads one of the four deflate formats. -/
theorem Inflate.context_deflate {z : Inflate} {ctx : Format} (h : z.context = some ctx) :
    ctx = .dflBlock ∨ ctx = .symLit ∨ ctx = .symDist ∨ ctx = .symCl := by
  unfold Inflate.context at h
  split at h <;> cases h <;> decide

section
variable {s : State} {fpos : Nat} {z : Inflate} {i : Instr} {f : Inflate → Except InflateFail Inflate}
  (he : s.engine = .inflating fpos z) (hc : z.context = some (formatOf i)) (hi : inflateEffect i = some f)
include he hc hi

/-- A DFL instruction that does not fail moves the decoder on. -/
theorem exec_inflate_of_ok {z' : Inflate} (hz : f z = .ok z') :
    exec i s = .next (s.setEngine (.inflating fpos z')) := by
  rw [exec_eq_onInflate hi]
  exact onInflate_eq_next.2 ⟨fpos, z, he, hc, .inl ⟨z', hz, rfl⟩⟩

/-- A DFL instruction that fails, for whatever reason, ends the payload. -/
theorem exec_inflate_of_error {e : InflateFail} (hz : f z = .error e) : exec i s = .next (s.inflateFailed fpos) := by
  rw [exec_eq_onInflate hi]
  exact onInflate_eq_next.2 ⟨fpos, z, he, hc, .inr ⟨e, hz, rfl⟩⟩

end

/-- Settles O21: the effect of a DFL instruction succeeds or fails, and that of the reserved ones fails. -/
theorem deflateInstructionGoesOnOrFails : Obligations.DeflateInstructionGoesOnOrFails := by
  intro i s fpos z he hc failed
  refine ⟨?_, ?_, ?_, ?_⟩
  · obtain ⟨f, hi⟩ := exists_inflateEffect (Inflate.context_deflate hc)
    cases hz : f z with
    | ok z' => exact .inl ⟨z', exec_inflate_of_ok he hc hi hz⟩
    | error e => exact .inr (exec_inflate_of_error he hc hi hz)
  · rintro final rfl
    exact exec_inflate_of_error he hc rfl rfl
  · rintro sym rfl
    exact exec_inflate_of_error he hc rfl rfl
  · rintro sym rfl
    exact exec_inflate_of_error he hc rfl rfl

end Sys2Proof.Machine
end

section
/-!
PROOFS. The codecs are transparent (42_resolver.md R179; 41_g5.md R152): a payload's class changes counters and G5 result
registers before its bytes are assembled, and assembly reads none of them but APPLIED (O36).
-/

namespace Sys2Proof.Machine

/-! ## The class of a payload as a whole -/

theorem resolve_zlib {p d : Bytes} (s : State) (hz : isZlib p = true) (hd : inflate p = .ok d) :
    s.resolve p = (.zlib d, s.count Counters.incZlib) := by
  rw [State.resolve, if_pos hz, hd]

theorem resolve_g5 {p : Bytes} (s : State) (hz : isZlib p = false) (hlen : 6 ≤ p.length)
    (hbit : (byteAt p 4).getLsbD 0 = true) :
    let g := g5Decode (slice p 6 p.length) (rowCountOf p * s.bpr)
    s.resolve p = (.g5 (slice p 0 6 ++ g.out), (s.recordG5 g).count Counters.incG5) := by
  rw [State.resolve, if_neg (Bool.eq_false_iff.1 hz), if_neg (Nat.not_lt.2 hlen), if_pos hbit]

theorem resolve_raw {p : Bytes} (s : State) (hz : isZlib p = false) (hlen : 6 ≤ p.length)
    (hbit : (byteAt p 4).getLsbD 0 = false) : s.resolve p = (.raw p, s.count Counters.incRaw) := by
  rw [State.resolve, if_neg (Bool.eq_false_iff.1 hz), if_neg (Nat.not_lt.2 hlen), if_neg (Bool.eq_false_iff.1 hbit)]

/-- Block bytes with a header are assembled, whatever class they come from (44_framer.md R244). -/
theorem dispatchClass_of_bytes {c : PayloadClass} {d : Bytes} (hc : c.bytes = some d) (hlen : 6 ≤ d.length) (s : State) :
    State.dispatchClass (c, s) = s.assemble d := by
  simp only [State.dispatchClass, hc, if_neg (Nat.not_lt.2 hlen)]

/-- Payloads with the same first two bytes are both zlib or both not (70_reset_and_hazards.md R408). -/
theorem isZlib_congr {p q : Bytes} (hp : 2 ≤ p.length) (hq : 2 ≤ q.length) (h : u16le p 0 = u16le q 0) :
    isZlib p = isZlib q :=
  (zlibStartRow_u16le hp).symm.trans ((congrArg zlibStartRow h).trans (zlibStartRow_u16le hq))

/-! ## What assembly leaves -/

/-- Where the planes are inside PB, assembly answers a state: the block's bytes in PB, the clamp events, and one more block
applied where any byte is written (45_assembler.md R266–R270). -/
theorem assemble_of_planes_fit {s : State} (hfit : s.np * s.psize ≤ s.caps.pbCap) (d : Bytes) :
    ∃ t, s.assemble d = .next t ∧
      t.pbMem = (if s.writeLength d = 0 then s.pbMem
        else Memory.write Config.unlistedByte s.pbMem (s.writeBase d) (slice d 6 (6 + s.writeLength d))) ∧
      t.status = (s.clampEvents d).status ∧
      t.cnt.applied = (if s.writeLength d = 0 then s.cnt.applied else satInc s.cnt.applied) := by
  obtain ⟨t, ht⟩ : ∃ t, s.assemble d = .next t := by
    have hin := write_inside d s
    have hlen : (slice d 6 (6 + s.writeLength d)).length ≤ s.writeLength d := by
      rw [slice_length]
      exact Nat.min_le_left ..
    have hle : s.writeBase d + (slice d 6 (6 + s.writeLength d)).length ≤ s.caps.pbCap := by omega
    unfold State.assemble
    dsimp only
    split_ifs
    · exact ⟨_, rfl⟩
    · rw [enginePbWrite_of_le (by simpa [State.clampEvents] using hle), andThen_of_next]
      exact ⟨_, rfl⟩
  refine ⟨t, ht, ?_⟩
  obtain ⟨hn, rfl⟩ | ⟨hn, -, rfl⟩ := assemble_cases ht
  · simp [hn, State.clampEvents]
  · simp [hn, State.clampEvents, Counters.incApplied]

/-- All that assembly reads or changes is the same: registers, capacities, NEXT_PLANE, PB, STATUS and APPLIED. The other
counters and the G5 result registers are free. -/
structure State.SameForAssembly (s t : State) : Prop where
  regs      : t.regs = s.regs
  caps      : t.caps = s.caps
  nextPlane : t.nextPlane = s.nextPlane
  pbMem     : t.pbMem = s.pbMem
  status    : t.status = s.status
  applied   : t.cnt.applied = s.cnt.applied

/-- Assembly writes the same bytes, raises the same events and counts APPLIED alike in states that are the same for it. -/
theorem State.SameForAssembly.assemble {s t : State} (h : s.SameForAssembly t) (hfit : s.np * s.psize ≤ s.caps.pbCap)
    (d : Bytes) :
    ∃ u v, s.assemble d = .next u ∧ t.assemble d = .next v ∧
      u.pbMem = v.pbMem ∧ u.status = v.status ∧ u.cnt.applied = v.cnt.applied := by
  obtain ⟨-, -, hb, -, hhe, hbpr, hnp, hpsize, -⟩ := State.geometry_congr h.regs
  have hfirst : t.firstRow d = s.firstRow d := by rw [State.firstRow, hhe, State.firstRow]
  have hwant : t.wantBytes d = s.wantBytes d := by
    rw [State.wantBytes, State.endRow, hfirst, hhe, hbpr, State.wantBytes, State.endRow]
  have hlen : t.writeLength d = s.writeLength d := by rw [State.writeLength, hwant, State.writeLength]
  have hbase : t.writeBase d = s.writeBase d := by
    simp only [State.writeBase, State.choosePlane, hb, hbpr, hpsize, hfirst, h.nextPlane]
  have hevents : (t.clampEvents d).status = (s.clampEvents d).status := by
    rw [State.clampEvents, hhe, hwant, State.clampEvents]
    simp only [State.raiseIf_status, h.status]
  obtain ⟨u, hu, upb, ustatus, uapplied⟩ := assemble_of_planes_fit hfit d
  obtain ⟨v, hv, vpb, vstatus, vapplied⟩ := assemble_of_planes_fit (s := t) (by rwa [hnp, hpsize, h.caps]) d
  rw [hlen, hbase, h.pbMem] at vpb
  rw [hlen, h.applied] at vapplied
  exact ⟨u, v, hu, hv, upb.trans vpb.symm, ustatus.trans (hevents.symm.trans vstatus.symm), uapplied.trans vapplied.symm⟩

/-- A G5 decode that fills its output records its results and raises nothing (41_g5.md R141). -/
theorem recordG5_of_full {g : G5Run} (h : g.exp ≤ g.out.length) (s : State) :
    s.recordG5 g = s.setG5Result g.out.length g.gpos := by
  rw [State.recordG5, decide_eq_false (Nat.not_lt.2 h)]
  rfl

/-! ## The two codecs -/

/-- A zlib payload and its content sent raw (42_resolver.md R179). -/
theorem zlib_transparent {s : State} {p d : Bytes} (hfit : s.np * s.psize ≤ s.caps.pbCap) (hz : isZlib p = true)
    (hd : inflate p = .ok d) (hlen : 6 ≤ d.length) (hraw : isZlib d = false) (hbit : (byteAt d 4).getLsbD 0 = false) :
    ∃ t u, State.dispatchClass (s.resolve p) = .next t ∧ State.dispatchClass (s.resolve d) = .next u ∧
      t.pbMem = u.pbMem ∧ t.status = u.status ∧ t.cnt.applied = u.cnt.applied := by
  rw [resolve_zlib s hz hd, resolve_raw s hraw hlen hbit, dispatchClass_of_bytes rfl hlen, dispatchClass_of_bytes rfl hlen]
  have hsame : (s.count Counters.incZlib).SameForAssembly (s.count Counters.incRaw) := ⟨rfl, rfl, rfl, rfl, rfl, rfl⟩
  exact hsame.assemble hfit d

/-- A G5 block whose data decodes to all the rows it declares hands its header and those rows on (42_resolver.md R175). -/
theorem resolve_g5_full {s : State} {r0 r1 c0 c1 format flags : Byte} {g d : Bytes}
    (hz : isZlib (r0 :: r1 :: c0 :: c1 :: format :: flags :: g) = false) (hbit : format.getLsbD 0 = true)
    (hrows : (c0.toNat + 256 * c1.toNat) * s.bpr = d.length) (hout : (g5Decode g d.length).out = d) :
    s.resolve (r0 :: r1 :: c0 :: c1 :: format :: flags :: g) =
      (.g5 (r0 :: r1 :: c0 :: c1 :: format :: flags :: d),
        (s.setG5Result d.length (g5Decode g d.length).gpos).count Counters.incG5) := by
  have hdata : slice (r0 :: r1 :: c0 :: c1 :: format :: flags :: g) 6 (g.length + 6) = g := by simp [slice]
  have hexp : rowCountOf (r0 :: r1 :: c0 :: c1 :: format :: flags :: g) * s.bpr = d.length := by
    rw [rowCountOf, u16le_toNat]
    exact hrows
  have hfull : (g5Decode g d.length).exp ≤ (g5Decode g d.length).out.length := by
    obtain ⟨-, hexp, -⟩ := loop_keeps g.length (G5Run.begin g d.length)
    rw [hout]
    exact hexp.le
  rw [resolve_g5 s hz (Nat.le_add_left ..) hbit]
  simp only [List.length_cons, hdata, hexp, recordG5_of_full hfull, hout]
  rfl

/-- A G5 block and the raw block of the rows it decodes to: the format bit, which alone tells them apart, is not read at
assembly (41_g5.md R152; 45_assembler.md R265). -/
theorem g5_transparent {s : State} {r0 r1 c0 c1 format flags : Byte} {g d : Bytes}
    (hfit : s.np * s.psize ≤ s.caps.pbCap)
    (hz : isZlib (r0 :: r1 :: c0 :: c1 :: (format ||| 1) :: flags :: g) = false)
    (hrows : (c0.toNat + 256 * c1.toNat) * s.bpr = d.length) (hout : (g5Decode g d.length).out = d) :
    ∃ t u, State.dispatchClass (s.resolve (r0 :: r1 :: c0 :: c1 :: (format ||| 1) :: flags :: g)) = .next t ∧
      State.dispatchClass (s.resolve (r0 :: r1 :: c0 :: c1 :: (format &&& 0xFE) :: flags :: d)) = .next u ∧
      t.pbMem = u.pbMem ∧ t.status = u.status ∧ t.cnt.applied = u.cnt.applied := by
  have hbits : ∀ f : Byte, (f ||| 1).getLsbD 0 = true ∧ (f &&& 0xFE).getLsbD 0 = false := by decide
  obtain ⟨hset, hclear⟩ := hbits format
  obtain ⟨-, -, hformat⟩ := ignoredBitsHaveNoEffect
  have hraw : isZlib (r0 :: r1 :: c0 :: c1 :: (format &&& 0xFE) :: flags :: d) = false :=
    (isZlib_congr (Nat.le_add_left 2 _) (Nat.le_add_left 2 _) rfl).trans hz
  rw [resolve_g5_full hz hset hrows hout, resolve_raw s hraw (Nat.le_add_left ..) hclear,
    dispatchClass_of_bytes rfl (Nat.le_add_left ..), dispatchClass_of_bytes rfl (Nat.le_add_left ..),
    hformat r0 r1 c0 c1 (format ||| 1) (format &&& 0xFE) flags flags d _ fun _ => rfl]
  have hsame : ((s.setG5Result d.length (g5Decode g d.length).gpos).count Counters.incG5).SameForAssembly
      (s.count Counters.incRaw) := ⟨rfl, rfl, rfl, rfl, rfl, rfl⟩
  exact hsame.assemble hfit _

/-- Settles O36: both codecs hand on block bytes the assembler takes for those of the raw block. -/
theorem codecsAreTransparent : Obligations.CodecsAreTransparent :=
  ⟨fun _ _ _ => zlib_transparent, fun _ _ _ _ _ _ _ _ _ hfit hz _ => g5_transparent hfit hz⟩

end Sys2Proof.Machine
end

section
/-!
PROOFS. The symbols of a block's body and the code-length symbols (43_inflate.md R203, R207–R213): the length symbols
(O26), the distance symbols and their copy (O27), the code-length symbols (O28), literals and the end of a block (O25).
-/

namespace Sys2Proof.Machine

/-! ## Sequences -/

theorem bind_of_ok {ε α β : Type} {x : Except ε α} {a : α} (h : x = .ok a) (f : α → Except ε β) : x >>= f = f a := by
  rw [h]
  rfl

theorem bind_of_error {ε α β : Type} {x : Except ε α} {e : ε} (h : x = .error e) (f : α → Except ε β) :
    x >>= f = .error e := by
  rw [h]
  rfl

theorem ok_bind {ε α β : Type} (a : α) (f : α → Except ε β) : (Except.ok a >>= f) = f a := rfl

/-! ## Tables and their extra bits -/

theorem getElem?_eq_getD_map (table : List (Nat × Nat)) {n : Nat} (hn : n < table.length) :
    table[n]? = some ((table.map Prod.fst).getD n 0, (table.map Prod.snd).getD n 0) := by
  simp [hn]

section
variable {sym base ext : Nat} {z : Inflate} {lit dist : HuffCode}

/-- A length symbol: its extra bits, then the length, with the distance symbol next (43_inflate.md R209). -/
theorem lengthSymbol_eq (hm : z.mode = .body lit dist) (hsym : 257 ≤ sym)
    (ht : lengthTable[sym - 257]? = some (base, ext)) :
    z.lengthSymbol sym =
      z.br.bits ext >>= fun p => .ok ((z.setReader p.2).setMode (.distance lit dist (base + p.1))) := by
  simp only [Inflate.lengthSymbol, hm, if_pos hsym, ht]
  rfl

/-- A distance symbol: its extra bits, then the copy from that far back, with the body going on (43_inflate.md R211,
R213). -/
theorem distanceSymbol_eq {len : Nat} (hm : z.mode = .distance lit dist len) (ht : distTable[sym]? = some (base, ext)) :
    z.distanceSymbol sym =
      z.br.bits ext >>= fun p =>
        if z.out.length < base + p.1 then .error .far
        else .ok (((z.setReader p.2).emit ((copyBack (base + p.1) len z.out).drop z.out.length)).setMode
          (.body lit dist)) := by
  simp only [Inflate.distanceSymbol, hm, ht]
  rfl

end

/-- Settles O26: the entry of the table, then the bits it asks for. -/
theorem lengthSymbolsFollowTheirTable : Obligations.LengthSymbolsFollowTheirTable := by
  unfold Obligations.LengthSymbolsFollowTheirTable
  intro lbase lext sym s fpos z lit dist he hm hlo hhi
  have hctx : z.context = some (formatOf (.dflLen sym)) := by rw [Inflate.context, hm]; rfl
  have ht : lengthTable[sym.toNat - 257]? = some (lbase.getD (sym.toNat - 257) 0, lext.getD (sym.toNat - 257) 0) :=
    getElem?_eq_getD_map lengthTable (show sym.toNat - 257 < 29 by omega)
  have heq := lengthSymbol_eq hm hlo ht
  exact ⟨fun e r hr => exec_inflate_of_ok he hctx rfl (heq.trans (bind_of_ok hr _)),
    fun err hr => exec_inflate_of_error he hctx rfl (heq.trans (bind_of_error hr _))⟩

/-! ## The copy -/

/-- What was produced before a copy stays where it is. -/
theorem getElem?_copyBack_of_lt {dist n i : Nat} {out : Bytes} (hi : i < out.length) :
    (copyBack dist n out)[i]? = out[i]? := by
  obtain ⟨tail, htail⟩ := copyBack_prefix dist n out
  rw [← htail, List.getElem?_append_left hi]

/-- Each copied byte is the one `dist` before it, which the copy itself may have produced (43_inflate.md R213). -/
theorem getElem?_copyBack {dist n j : Nat} {out : Bytes} (hd : dist ≤ out.length) (hj : j < n) :
    (copyBack dist n out)[out.length + j]? = (copyBack dist n out)[out.length + j - dist]? := by
  induction n generalizing out j with
  | zero => exact absurd hj (Nat.not_lt_zero j)
  | succ n ih =>
    rw [copyBack]
    have hlen : ∀ b, (out ++ [b]).length = out.length + 1 := fun _ => List.length_append
    cases j with
    | zero =>
      rcases Nat.eq_zero_or_pos dist with rfl | hpos
      · rfl
      · have hback : out.length + 0 - dist < out.length := by omega
        rw [getElem?_copyBack_of_lt (by rw [hlen]; omega), getElem?_copyBack_of_lt (by rw [hlen]; omega),
          List.getElem?_append_left hback]
        simp [show out.length - dist < out.length by omega]
    | succ j =>
      have hnext := ih (out := out ++ [out.getD (out.length - dist) 0]) (j := j) (by rw [hlen]; omega) (by omega)
      rwa [hlen, Nat.add_assoc, Nat.add_comm 1 j] at hnext

/-- The copy is what was there and what it appends. -/
theorem append_drop_copyBack (dist n : Nat) (out : Bytes) :
    out ++ (copyBack dist n out).drop out.length = copyBack dist n out := by
  obtain ⟨tail, htail⟩ := copyBack_prefix dist n out
  rw [← htail, List.drop_left]

/-- Settles O27: the entry of the table, the bits it asks for, and the copy byte by byte. -/
theorem distanceSymbolsCopyByteByByte : Obligations.DistanceSymbolsCopyByteByByte := by
  unfold Obligations.DistanceSymbolsCopyByteByByte
  intro dbase dext ds s fpos z lit dist len he hm hds
  have hctx : z.context = some (formatOf (.dflDist ds)) := by rw [Inflate.context, hm]; rfl
  have ht : distTable[ds.toNat]? = some (dbase.getD ds.toNat 0, dext.getD ds.toNat 0) :=
    getElem?_eq_getD_map distTable (show ds.toNat < 30 by omega)
  have heq := distanceSymbol_eq hm ht
  refine ⟨?_, fun err hr => exec_inflate_of_error he hctx rfl (heq.trans (bind_of_error hr _))⟩
  intro e r hr d
  have heq := heq.trans (bind_of_ok hr _)
  refine ⟨fun hfar => exec_inflate_of_error he hctx rfl (heq.trans (if_pos hfar)), fun hnear => ?_⟩
  refine ⟨_, exec_inflate_of_ok he hctx rfl (heq.trans (if_neg (Nat.not_lt.2 hnear))), rfl, rfl, rfl, ?_⟩
  simp only [Inflate.setMode, Inflate.emit, Inflate.setReader, append_drop_copyBack, and_true]
  exact ⟨copyBack_length .., fun i hi => getElem?_copyBack_of_lt hi, fun j hj => getElem?_copyBack hnear hj⟩

/-! ## Code-length symbols -/

section
variable {z : Inflate} {nlit ndist : Nat} {clt : HuffCode} {lens : List Nat}
  (hm : z.mode = .lengths nlit ndist clt lens)
include hm

theorem addLengths_of_le {more : List Nat} (h : lens.length + more.length ≤ nlit + ndist) :
    z.addLengths more = .ok (z.setMode (.lengths nlit ndist clt (lens ++ more))) := by
  simp only [Inflate.addLengths, hm, List.length_append, if_neg (Nat.not_lt.2 h)]

theorem addLengths_of_gt {more : List Nat} (h : nlit + ndist < lens.length + more.length) :
    z.addLengths more = .error .repeatOverflow := by
  simp only [Inflate.addLengths, hm, List.length_append, if_pos h]

theorem repeatLast_of_nil (h : lens = []) : z.repeatLast = .error .repeatNoPrev := by
  simp only [Inflate.repeatLast, hm, h, List.getLast?_nil]

theorem repeatLast_of_getLast? {l : Nat} (h : lens.getLast? = some l) :
    z.repeatLast = z.br.bits 2 >>= fun p => (z.setReader p.2).addLengths (List.replicate (3 + p.1) l) := by
  simp only [Inflate.repeatLast, hm, h]

/-- Without the bits of its count a repeat fails, whether it has a length to repeat or not. -/
theorem repeatLast_of_error {e : InflateFail} (h : z.br.bits 2 = .error e) : ∃ e', z.repeatLast = .error e' := by
  cases hlast : lens.getLast? with
  | none => exact ⟨_, repeatLast_of_nil hm (List.getLast?_eq_none_iff.1 hlast)⟩
  | some l => exact ⟨e, (repeatLast_of_getLast? hm hlast).trans (bind_of_error h _)⟩

end

theorem repeatZero_eq (base ext : Nat) (z : Inflate) :
    z.repeatZero base ext =
      z.br.bits ext >>= fun p => (z.setReader p.2).addLengths (List.replicate (base + p.1) 0) := rfl

/-- A symbol whose effect is to append lengths does so up to the announced number and fails beyond it
(43_inflate.md R203). -/
theorem exec_of_addLengths {i : Instr} {f : Inflate → Except InflateFail Inflate} {s : State} {fpos : Nat} {z : Inflate}
    {nlit ndist : Nat} {clt : HuffCode} {lens more : List Nat} {r : BitReader} (he : s.engine = .inflating fpos z)
    (hm : z.mode = .lengths nlit ndist clt lens) (hctx : formatOf i = .symCl) (hi : inflateEffect i = some f)
    (hf : f z = (z.setReader r).addLengths more) :
    (lens.length + more.length ≤ nlit + ndist → exec i s =
      .next (s.setEngine (.inflating fpos { z with br := r, mode := .lengths nlit ndist clt (lens ++ more) }))) ∧
    (nlit + ndist < lens.length + more.length → exec i s = .next (s.inflateFailed fpos)) := by
  have hctx : z.context = some (formatOf i) := by rw [Inflate.context, hm, hctx]
  have hm' : (z.setReader r).mode = .lengths nlit ndist clt lens := hm
  exact ⟨fun hle => exec_inflate_of_ok he hctx hi (hf.trans (addLengths_of_le hm' hle)),
    fun hgt => exec_inflate_of_error he hctx hi (hf.trans (addLengths_of_gt hm' hgt))⟩

/-- Settles O28: every code-length symbol appends lengths, after the bits of its count. -/
theorem codeLengthSymbolsAppendLengths : Obligations.CodeLengthSymbolsAppendLengths := by
  intro s fpos z nlit ndist clt lens he hm result
  have hctx : z.context = some .symCl := by rw [Inflate.context, hm]
  refine ⟨fun sym => ?_, fun n r hr l hl => ?_, fun hnil => ?_, fun n r hr => ?_, fun n r hr => ?_, fun e hr => ?_,
    fun e hr => ?_, fun e hr => ?_⟩
  · exact exec_of_addLengths he hm rfl rfl rfl
  · exact exec_of_addLengths he hm rfl rfl ((repeatLast_of_getLast? hm hl).trans (bind_of_ok hr _))
  · exact exec_inflate_of_error he hctx rfl (repeatLast_of_nil hm hnil)
  · exact exec_of_addLengths he hm rfl rfl ((repeatZero_eq 3 3 z).trans (bind_of_ok hr _))
  · exact exec_of_addLengths he hm rfl rfl ((repeatZero_eq 11 7 z).trans (bind_of_ok hr _))
  · obtain ⟨e', hfail⟩ := repeatLast_of_error hm hr
    exact exec_inflate_of_error he hctx rfl hfail
  · exact exec_inflate_of_error he hctx rfl ((repeatZero_eq 3 3 z).trans (bind_of_error hr _))
  · exact exec_inflate_of_error he hctx rfl ((repeatZero_eq 11 7 z).trans (bind_of_error hr _))

/-! ## Literals and the end of a block -/

/-- Settles O25: both are read in a block's body, and neither can fail. -/
theorem literalAndEndOfBlockSymbols : Obligations.LiteralAndEndOfBlockSymbols := by
  intro s fpos z lit dist he hm
  have hctx : z.context = some .symLit := by rw [Inflate.context, hm]
  exact ⟨fun sym => exec_inflate_of_ok (i := .dflLit sym) he hctx rfl rfl,
    exec_inflate_of_ok (i := .dflEob) he hctx rfl rfl⟩

end Sys2Proof.Machine
end

section
/-!
PROOFS. Huffman codes (43_inflate.md R194, R195): the canonical code and why no code word begins another
(O31), the fixed codes (O23), and the reading of a symbol (O30).
-/

namespace Sys2Proof.Machine

/-! ## What a code assigns -/

theorem foldl_max_le_iff {lens : List Nat} {a b : Nat} : lens.foldl max a ≤ b ↔ a ≤ b ∧ ∀ l ∈ lens, l ≤ b := by
  induction lens generalizing a with
  | nil => simp
  | cons l ls ih => simp [ih, and_assoc]

/-- The longest length is 0 where no symbol is used. -/
theorem foldl_max_eq_zero {lens : List Nat} : lens.foldl max 0 = 0 ↔ ∀ l ∈ lens, l = 0 := by
  simpa using foldl_max_le_iff (lens := lens) (a := 0) (b := 0)

/-- Each symbol's code is the first one of its length, counted on by the earlier symbols of that length. -/
theorem assignCodes_code {next lens : List Nat} {s : Nat} {e : CodeEntry} (h : e ∈ assignCodes next s lens)
    (hlens : ∀ l ∈ lens, l < next.length) :
    e.code = next.getD e.len 0 + (lens.take (e.sym - s)).count e.len := by
  induction lens generalizing next s with
  | nil => cases h
  | cons l ls ih =>
    have hls (n : Nat) (hn : n = next.length) : ∀ k ∈ ls, k < n := fun k hk => hn ▸ hlens k (List.mem_cons_of_mem _ hk)
    have htake {next' : List Nat} (hmem : e ∈ assignCodes next' (s + 1) ls) :
        (l :: ls).take (e.sym - s) = l :: ls.take (e.sym - (s + 1)) := by
      obtain ⟨-, hsym, -⟩ := assignCodes_mem hmem
      rw [show e.sym - s = (e.sym - (s + 1)) + 1 by omega, List.take_succ_cons]
    rw [assignCodes] at h
    split at h
    · rename_i hl
      obtain ⟨hlen, -, -⟩ := assignCodes_mem h
      rw [htake h, List.count_cons_of_ne (by omega), ih h (hls _ rfl)]
    · obtain rfl | hmem := List.mem_cons.1 h
      · simp
      · rw [htake hmem, ih hmem (hls _ List.length_set)]
        by_cases hl : l = e.len
        · subst hl
          have hread : (next.set e.len (next.getD e.len 0 + 1)).getD e.len 0 = next.getD e.len 0 + 1 := by
            simp [hlens e.len List.mem_cons_self]
          rw [hread, List.count_cons_self]
          omega
        · rw [List.count_cons_of_ne hl, List.getD_eq_getElem?_getD, List.getElem?_set_ne hl,
            ← List.getD_eq_getElem?_getD]

/-! ## The first code of each length -/

/-- The first number behind the codes of length `l` (43_inflate.md R195). -/
def codeEnd (lens : List Nat) : Nat → Nat
  | 0 => 0
  | l + 1 => 2 * codeEnd lens l + lens.count (l + 1)

/-- The list of first codes: those of one length begin at twice the number behind those of the length before. -/
theorem getElem?_codeStarts {lens : List Nat} {k l code cnt i : Nat} (hend : code + cnt = codeEnd lens l) (hi : i < k) :
    (codeStarts lens k (l + 1) code cnt)[i]? = some (2 * codeEnd lens (l + i)) := by
  induction k generalizing l code cnt i with
  | zero => exact absurd hi (Nat.not_lt_zero i)
  | succ k ih =>
    rw [codeStarts, hend]
    cases i with
    | zero => rfl
    | succ i =>
      rw [List.getElem?_cons_succ, ih (l := l + 1) rfl (Nat.lt_of_succ_lt_succ hi), Nat.add_assoc, Nat.add_comm 1 i]

theorem codeStarts_length (lens : List Nat) (k l code cnt : Nat) : (codeStarts lens k l code cnt).length = k := by
  induction k generalizing l code cnt with
  | zero => rfl
  | succ k ih => rw [codeStarts, List.length_cons, ih]

/-- A code of the canonical assignment: its length's first code and its symbol's rank among that length's symbols
(43_inflate.md R195). -/
theorem canonicalCode_code {lens : List Nat} {e : CodeEntry} (hlens : ∀ l ∈ lens, l ≤ 15)
    (he : e ∈ canonicalCode lens) :
    e.len ≤ 15 ∧ lens[e.sym]? = some e.len ∧
      ∃ l, e.len = l + 1 ∧ e.code = 2 * codeEnd lens l + (lens.take e.sym).count e.len := by
  obtain ⟨hne, -, hsym⟩ := assignCodes_mem he
  have hle := hlens _ (List.mem_of_getElem? hsym)
  have hcode := assignCodes_code he fun l hl => by
    rw [List.length_cons, codeStarts_length]
    exact Nat.lt_succ_of_le (hlens l hl)
  obtain ⟨l, hl⟩ := Nat.exists_eq_succ_of_ne_zero hne
  have hstart : (0 :: codeStarts lens 15 1 0 0).getD e.len 0 = 2 * codeEnd lens l := by
    rw [hl, List.getD_cons_succ, List.getD_eq_getElem?_getD, getElem?_codeStarts (l := 0) rfl (by omega), Nat.zero_add]
    rfl
  rw [hstart] at hcode
  exact ⟨hle, hsym, l, hl, hcode⟩

/-- A symbol of length `l` has fewer symbols of that length before it than there are. -/
theorem count_take_lt {lens : List Nat} {s l : Nat} (h : lens[s]? = some l) : (lens.take s).count l < lens.count l := by
  obtain ⟨hs, rfl⟩ := List.getElem?_eq_some_iff.1 h
  have hsplit : (lens.take (s + 1)).count lens[s] = (lens.take s).count lens[s] + 1 := by
    rw [List.take_succ_eq_append_getElem hs, List.count_append, List.count_singleton_self]
  have hsub := (List.take_sublist (s + 1) lens).count_le lens[s]
  omega

/-- A later symbol of the same length has more symbols of that length before it. -/
theorem count_take_lt_count_take {lens : List Nat} {s t l : Nat} (hs : lens[s]? = some l) (hst : s < t) :
    (lens.take s).count l < (lens.take t).count l := by
  have htake : (lens.take t)[s]? = some l := by rw [List.getElem?_take_of_lt hst, hs]
  have hlt := count_take_lt htake
  rwa [List.take_take, Nat.min_eq_left (Nat.le_of_lt hst)] at hlt

/-- The codes of a length lie between its first code and the number behind its last. -/
theorem canonicalCode_bounds {lens : List Nat} {e : CodeEntry} (hlens : ∀ l ∈ lens, l ≤ 15)
    (he : e ∈ canonicalCode lens) :
    2 * codeEnd lens (e.len - 1) ≤ e.code ∧ e.code < codeEnd lens e.len := by
  obtain ⟨-, hsym, l, hl, hcode⟩ := canonicalCode_code hlens he
  have hrank := count_take_lt hsym
  rw [hl] at hrank hcode ⊢
  rw [codeEnd]
  exact ⟨by rw [hcode]; exact Nat.le_add_right .., by omega⟩

/-! ## Validity -/

/-- What `build` has left of the code space and what the codes take of it make up the whole (43_inflate.md R195). -/
theorem codeSpace_eq_some {lens : List Nat} {k l left rest : Nat} (h : codeSpace lens k (l + 1) left = some rest)
    (hl : left + codeEnd lens l = 2 ^ l) (i : Nat) (hi : i ≤ k) : codeEnd lens (l + i) ≤ 2 ^ (l + i) := by
  induction k generalizing l left i with
  | zero => rw [Nat.le_zero.1 hi, Nat.add_zero, ← hl]; exact Nat.le_add_left ..
  | succ k ih =>
    rw [codeSpace] at h
    split at h
    · cases h
    · cases i with
      | zero => rw [Nat.add_zero, ← hl]; exact Nat.le_add_left ..
      | succ i =>
        have hnext := ih h (by rw [codeEnd, pow_succ]; omega) i (Nat.le_of_succ_le_succ hi)
        rwa [Nat.add_assoc, Nat.add_comm 1 i] at hnext

/-- What `build` accepts: a code space not over-subscribed, and the canonical code or, where no symbol is used, none. -/
theorem buildCode_eq_ok {lens : List Nat} {kind : CodeKind} {T : HuffCode} (h : buildCode lens kind = .ok T) :
    (∃ left, codeSpace lens 15 1 1 = some left) ∧
      ((∀ l ∈ lens, l = 0) ∧ T = [] ∨ T = canonicalCode lens) := by
  unfold buildCode at h
  split at h
  · cases h
  · rename_i left hspace
    dsimp only at h
    refine ⟨⟨left, hspace⟩, ?_⟩
    split_ifs at h with hmax
    · cases h
      exact .inl ⟨foldl_max_eq_zero.1 hmax, rfl⟩
    · cases h
      exact .inr rfl

/-- Between two lengths the code space only grows: a longer code cut to a shorter length is behind all codes of that
length. -/
theorem codeEnd_mul_le {lens : List Nat} (l d : Nat) : codeEnd lens l * 2 ^ (d + 1) ≤ 2 * codeEnd lens (l + d) := by
  induction d with
  | zero => rw [Nat.zero_add, Nat.pow_one, Nat.mul_comm]; exact Nat.le_refl _
  | succ d ih =>
    have hstep : codeEnd lens (l + (d + 1)) = 2 * codeEnd lens (l + d) + lens.count (l + (d + 1)) := rfl
    rw [pow_succ, ← Nat.mul_assoc]
    omega

/-- No code of the canonical assignment begins another (43_inflate.md R195). -/
theorem canonicalCode_prefix_free {lens : List Nat} {e f : CodeEntry} (hlens : ∀ l ∈ lens, l ≤ 15)
    (he : e ∈ canonicalCode lens) (hf : f ∈ canonicalCode lens) (hle : e.len ≤ f.len)
    (hcut : f.code / 2 ^ (f.len - e.len) = e.code) : e = f := by
  obtain ⟨-, hsymE, le, hlE, hcodeE⟩ := canonicalCode_code hlens he
  obtain ⟨-, hsymF, lf, hlF, hcodeF⟩ := canonicalCode_code hlens hf
  rcases Nat.lt_or_eq_of_le hle with hlt | heq
  · obtain ⟨d, hd⟩ : ∃ d, f.len = e.len + (d + 1) := ⟨f.len - e.len - 1, by omega⟩
    have hbehind : codeEnd lens e.len ≤ e.code := by
      rw [← hcut, hd, Nat.add_sub_cancel_left, Nat.le_div_iff_mul_le (Nat.two_pow_pos _)]
      obtain ⟨hstart, -⟩ := canonicalCode_bounds hlens hf
      rw [hd] at hstart
      exact (codeEnd_mul_le e.len d).trans hstart
    obtain ⟨-, hend⟩ := canonicalCode_bounds hlens he
    omega
  · rw [heq, Nat.sub_self, Nat.pow_zero, Nat.div_one] at hcut
    have hl : le = lf := by omega
    rw [hcodeF, hcodeE, hl, ← heq, Nat.add_left_cancel_iff] at hcut
    rw [← heq] at hsymF
    have hsym : e.sym = f.sym := by
      rcases Nat.lt_trichotomy e.sym f.sym with hlt | hsame | hgt
      · have := count_take_lt_count_take hsymE hlt
        omega
      · exact hsame
      · have := count_take_lt_count_take hsymF hgt
        omega
    obtain ⟨len, code, sym⟩ := e
    obtain ⟨len', code', sym'⟩ := f
    simp_all

/-- Settles O31: a code that is not over-subscribed gives each length its own stretch of numbers, and none of a longer
length begins with one of a shorter. -/
theorem builtCodesArePrefixFree : Obligations.BuiltCodesArePrefixFree := by
  intro lens kind T hlens hbuild
  obtain ⟨⟨left, hspace⟩, ⟨hzero, rfl⟩ | rfl⟩ := buildCode_eq_ok hbuild
  · refine ⟨fun s l hs hl => absurd (hzero l (List.mem_of_getElem? hs)) hl, ?_, ?_⟩ <;> simp
  · refine ⟨fun s l hs hl => ?_, fun e he => ?_, fun e he f hf => canonicalCode_prefix_free hlens he hf⟩
    · simpa [canonicalCode] using assignCodes_sym (s := 0) hs hl
    · obtain ⟨hle, hsym, l, hl, -⟩ := canonicalCode_code hlens he
      obtain ⟨-, hend⟩ := canonicalCode_bounds hlens he
      have hfits := codeSpace_eq_some (l := 0) hspace rfl e.len hle
      rw [Nat.zero_add] at hfits
      exact ⟨by omega, Nat.lt_of_lt_of_le hend hfits, hsym⟩

/-! ## The fixed codes -/

/-- Codes in a row: the first, then the others. -/
theorem codeRange_succ (len code sym n : Nat) :
    codeRange len code sym (n + 1) =
      { len := len, code := code, sym := sym } :: codeRange len (code + 1) (sym + 1) n := by
  simp [codeRange, List.range_succ_eq_map, Function.comp_def, Nat.add_assoc, Nat.add_comm 1]

/-- Successive symbols of one length have successive codes. -/
theorem assignCodes_replicate {next : List Nat} {l : Nat} (hl : l ≠ 0) (hnext : l < next.length) (s n : Nat)
    (rest : List Nat) :
    assignCodes next s (List.replicate n l ++ rest) =
      codeRange l (next.getD l 0) s n ++ assignCodes (next.set l (next.getD l 0 + n)) (s + n) rest := by
  induction n generalizing next s with
  | zero =>
    have hself : next.set l (next.getD l 0) = next := by simp [hnext]
    rw [Nat.add_zero, Nat.add_zero, hself]
    rfl
  | succ n ih =>
    have hread : (next.set l (next.getD l 0 + 1)).getD l 0 = next.getD l 0 + 1 := by simp [hnext]
    rw [List.replicate_succ, List.cons_append, assignCodes, if_neg hl, ih (by simpa using hnext), hread, List.set_set,
      codeRange_succ, List.cons_append]
    simp only [Nat.add_assoc, Nat.add_comm 1]

/-- Lengths that fill the code space are accepted for every kind of code. -/
theorem buildCode_of_complete {lens : List Nat} {kind : CodeKind} {l : Nat} (hspace : codeSpace lens 15 1 1 = some 0)
    (hmem : l ∈ lens) (hl : l ≠ 0) : buildCode lens kind = .ok (canonicalCode lens) := by
  have hmax : lens.foldl max 0 ≠ 0 := fun h => hl (foldl_max_eq_zero.1 h l hmem)
  simp only [buildCode, hspace, if_neg hmax, Nat.lt_irrefl, false_and, if_false]

theorem count_fixedLitLengths (l : Nat) :
    fixedLitLengths.count l =
      (if 8 == l then 144 else 0) + (if 9 == l then 112 else 0) + (if 7 == l then 24 else 0) +
        (if 8 == l then 8 else 0) := by
  simp only [fixedLitLengths, List.count_append, List.count_replicate]

theorem canonicalCode_fixedLitLengths : canonicalCode fixedLitLengths = fixedLit := by
  have hstarts : codeStarts fixedLitLengths 15 1 0 0 =
      [0, 0, 0, 0, 0, 0, 0, 0x30, 0x190, 1024, 2048, 4096, 8192, 16384, 32768] := by
    simp [codeStarts, count_fixedLitLengths]
  rw [canonicalCode, hstarts, fixedLitLengths, List.append_assoc, List.append_assoc,
    ← List.append_nil (List.replicate 8 8), assignCodes_replicate (by decide) (by decide),
    assignCodes_replicate (by decide) (by decide), assignCodes_replicate (by decide) (by decide),
    assignCodes_replicate (by decide) (by decide)]
  simp [assignCodes, fixedLit]

theorem buildCode_fixedLitLengths (kind : CodeKind) : buildCode fixedLitLengths kind = .ok fixedLit := by
  have hspace : codeSpace fixedLitLengths 15 1 1 = some 0 := by simp [codeSpace, count_fixedLitLengths]
  have hmem : 8 ∈ fixedLitLengths := List.mem_append_right _ List.mem_cons_self
  rw [buildCode_of_complete hspace hmem (by decide), canonicalCode_fixedLitLengths]

theorem buildCode_fixedDistLengths (kind : CodeKind) : buildCode (List.replicate 32 5) kind = .ok fixedDist :=
  buildCode_of_complete (l := 5) (by decide) (by decide) (by decide)

/-- Settles O23: the fixed lengths fill the code space, and their canonical codes are the ranges listed. -/
theorem fixedBlockReadsWithTheFixedCodes : Obligations.FixedBlockReadsWithTheFixedCodes := by
  refine ⟨fun final s fpos z he hm => ?_, buildCode_fixedLitLengths .lit, buildCode_fixedDistLengths .dist, ?_⟩
  · have hctx : z.context = some (formatOf (.dflFixed final)) := by rw [Inflate.context, hm]; rfl
    exact exec_inflate_of_ok he hctx rfl rfl
  · decide

/-! ## Bits, high one first -/

theorem bit_lt {r r' : BitReader} {v : Nat} (h : r.bit = .ok (v, r')) : v < 2 := by
  unfold BitReader.bit at h
  split at h
  · cases h
  · cases h
    exact Bool.toNat_lt _

/-- The bits one longer, taken apart: all but the last, which is the highest, and the last. -/
theorem bits_succ_eq_ok {n v : Nat} {r r' : BitReader} :
    r.bits (n + 1) = .ok (v, r') ↔
      ∃ w q b, r.bits n = .ok (w, q) ∧ q.bit = .ok (b, r') ∧ v = w + 2 ^ n * b := by
  rw [bits_succ]
  constructor
  · intro h
    obtain ⟨⟨w, q⟩, hw, h⟩ := bind_eq_ok.1 h
    obtain ⟨⟨b, q'⟩, hb, h⟩ := bind_eq_ok.1 h
    cases h
    exact ⟨w, q, b, hw, hb, rfl⟩
  · rintro ⟨w, q, b, hw, hb, rfl⟩
    exact bind_eq_ok.2 ⟨_, hw, bind_eq_ok.2 ⟨_, hb, rfl⟩⟩

/-- `n` bits are a number below 2^n, wherever the reader stands. -/
theorem bits_lt {n v : Nat} {r r' : BitReader} (h : r.bits n = .ok (v, r')) : v < 2 ^ n := by
  induction n generalizing v r' with
  | zero => cases h; decide
  | succ n ih =>
    obtain ⟨w, q, b, hw, hb, rfl⟩ := bits_succ_eq_ok.1 h
    have hw := ih hw
    have hb := Nat.mul_le_mul_left (2 ^ n) (Nat.le_of_lt_succ (bit_lt hb))
    rw [pow_succ]
    omega

/-- The next `n` bits with the first one highest, as `decode` reads a code word (43_inflate.md R194). -/
def BitReader.codeBits : Nat → BitReader → Except InflateFail (Nat × BitReader)
  | 0, r => .ok (0, r)
  | n + 1, r => r.codeBits n >>= fun p => p.2.bit >>= fun q => .ok (2 * p.1 + q.1, q.2)

theorem codeBits_succ_eq_ok {n c : Nat} {r r' : BitReader} :
    r.codeBits (n + 1) = .ok (c, r') ↔
      ∃ d q b, r.codeBits n = .ok (d, q) ∧ q.bit = .ok (b, r') ∧ c = 2 * d + b := by
  rw [BitReader.codeBits]
  constructor
  · intro h
    obtain ⟨⟨d, q⟩, hd, h⟩ := bind_eq_ok.1 h
    obtain ⟨⟨b, q'⟩, hb, h⟩ := bind_eq_ok.1 h
    cases h
    exact ⟨d, q, b, hd, hb, rfl⟩
  · rintro ⟨d, q, b, hd, hb, rfl⟩
    exact bind_eq_ok.2 ⟨_, hd, bind_eq_ok.2 ⟨_, hb, rfl⟩⟩

/-- Where a code word can be read, a shorter one can. -/
theorem codeBits_le {m n c : Nat} {r r' : BitReader} (hmn : m ≤ n) (h : r.codeBits n = .ok (c, r')) :
    ∃ d q, r.codeBits m = .ok (d, q) := by
  induction n generalizing c r' with
  | zero => exact ⟨c, r', by rwa [Nat.le_zero.1 hmn]⟩
  | succ n ih =>
    rcases Nat.lt_or_eq_of_le hmn with hlt | rfl
    · obtain ⟨d, q, b, hd, -, -⟩ := codeBits_succ_eq_ok.1 h
      exact ih (Nat.le_of_lt_succ hlt) hd
    · exact ⟨c, r', h⟩

/-- `c` has `n` bits, and they are those of `v` in the opposite order. -/
def Mirrored (n c v : Nat) : Prop := c < 2 ^ n ∧ ∀ j, j < n → c.testBit (n - 1 - j) = v.testBit j

/-- One bit more at the low end of the one number and at the high end of the other. -/
theorem mirrored_succ {n c v d b : Nat} (hv : v < 2 ^ n) (hd : d < 2) (hb : b < 2) :
    Mirrored (n + 1) (2 * c + d) (v + 2 ^ n * b) ↔ Mirrored n c v ∧ d = b := by
  have hlow (k : Nat) : (2 * c + d).testBit k = if k = 0 then d.testBit k else c.testBit (k - 1) := by
    simpa [Nat.lt_one_iff] using Nat.testBit_two_pow_mul_add c (i := 1) (by simpa using hd) k
  have hhigh (j : Nat) : (v + 2 ^ n * b).testBit j = if j < n then v.testBit j else b.testBit (j - n) := by
    rw [Nat.add_comm]
    exact Nat.testBit_two_pow_mul_add b hv j
  have hbits : d.testBit 0 = b.testBit 0 ↔ d = b := by
    simp only [Nat.testBit_zero, decide_eq_decide]
    omega
  have hrange : 2 * c + d < 2 ^ (n + 1) ↔ c < 2 ^ n := by
    rw [pow_succ]
    omega
  unfold Mirrored
  rw [hrange, and_assoc, and_congr_right_iff]
  intro _
  rw [Nat.forall_lt_succ_right, hlow, hhigh]
  simp only [Nat.add_sub_cancel, Nat.sub_self, if_true, Nat.lt_irrefl, if_false, hbits]
  refine and_congr_left fun _ => forall₂_congr fun j hj => ?_
  rw [hlow, hhigh, if_pos hj, if_neg (by omega), Nat.sub_right_comm]

/-- A code word read is the bits read in the opposite order. -/
theorem codeBits_eq_ok {n c : Nat} {r r' : BitReader} :
    r.codeBits n = .ok (c, r') ↔ ∃ v, r.bits n = .ok (v, r') ∧ Mirrored n c v := by
  induction n generalizing c r' with
  | zero =>
    constructor
    · intro h
      cases h
      exact ⟨0, rfl, by decide, fun j hj => absurd hj (Nat.not_lt_zero j)⟩
    · rintro ⟨v, h, hc, -⟩
      cases h
      rw [Nat.lt_one_iff.1 hc]
      rfl
  | succ n ih =>
    rw [codeBits_succ_eq_ok]
    constructor
    · rintro ⟨d, q, b, hd, hb, rfl⟩
      obtain ⟨w, hw, hm⟩ := ih.1 hd
      exact ⟨_, bits_succ_eq_ok.2 ⟨w, q, b, hw, hb, rfl⟩,
        (mirrored_succ (bits_lt hw) (bit_lt hb) (bit_lt hb)).2 ⟨hm, rfl⟩⟩
    · rintro ⟨v, hv, hm⟩
      obtain ⟨w, q, b, hw, hb, rfl⟩ := bits_succ_eq_ok.1 hv
      rw [← Nat.div_add_mod c 2] at hm ⊢
      obtain ⟨hm, hlast⟩ := (mirrored_succ (bits_lt hw) (Nat.mod_lt _ (by decide)) (bit_lt hb)).1 hm
      exact ⟨c / 2, q, b, ih.2 ⟨w, hw, hm⟩, hb, by rw [hlast]⟩

/-! ## The search for a code word -/

/-- An entry that shares its code word with no other is the one found. -/
theorem lookup_of_unique {T : HuffCode} {e : CodeEntry} (he : e ∈ T)
    (hu : ∀ f ∈ T, f.len = e.len → f.code = e.code → f = e) : T.lookup e.len e.code = some e.sym := by
  cases h : T.lookup e.len e.code with
  | none => exact absurd ⟨rfl, rfl⟩ (lookup_eq_none.1 h e he)
  | some s =>
    obtain ⟨f, hf, hlen, hcode, rfl⟩ := lookup_eq_some h
    rw [hu f hf hlen hcode]

section
variable {T : HuffCode} {r₀ r r' : BitReader} {k l c s : Nat}

/-- A symbol read is that of a code word of one of the lengths tried. -/
theorem codeBits_of_decodeFrom (hc : r₀.codeBits l = .ok (c, r)) (h : T.decodeFrom k (l + 1) c r = .ok (s, r')) :
    ∃ n d, l < n ∧ n ≤ l + k ∧ r₀.codeBits n = .ok (d, r') ∧ T.lookup n d = some s := by
  induction k generalizing l c r with
  | zero => cases h
  | succ k ih =>
    rw [HuffCode.decodeFrom] at h
    obtain ⟨⟨b, q⟩, hb, h⟩ := bind_eq_ok.1 h
    have hnext : r₀.codeBits (l + 1) = .ok (2 * c + b, q) := codeBits_succ_eq_ok.2 ⟨c, r, b, hc, hb, rfl⟩
    dsimp only at h
    split at h
    · cases h
      exact ⟨l + 1, _, by omega, by omega, hnext, ‹_›⟩
    · obtain ⟨n, d, hlo, hhi, hn⟩ := ih hnext h
      exact ⟨n, d, by omega, by omega, hn⟩

/-- The first length that has a code word for the bits gives the symbol read. -/
theorem decodeFrom_of_codeBits {n d : Nat} (hc : r₀.codeBits l = .ok (c, r)) (hlo : l < n) (hhi : n ≤ l + k)
    (hd : r₀.codeBits n = .ok (d, r')) (hs : T.lookup n d = some s)
    (hshort : ∀ m d' q, l < m → m < n → r₀.codeBits m = .ok (d', q) → T.lookup m d' = none) :
    T.decodeFrom k (l + 1) c r = .ok (s, r') := by
  induction k generalizing l c r with
  | zero => omega
  | succ k ih =>
    obtain ⟨d', q', hnext⟩ := codeBits_le (Nat.succ_le_of_lt hlo) hd
    obtain ⟨c', q, b, hc', hb, rfl⟩ := codeBits_succ_eq_ok.1 hnext
    cases hc.symm.trans hc'
    rw [HuffCode.decodeFrom, hb]
    rcases Nat.lt_or_eq_of_le (Nat.succ_le_of_lt hlo) with hlt | rfl
    · have hrest := ih hnext hlt (by omega) fun m d' q hm => hshort m d' q (by omega)
      simpa [bind, Except.bind, hshort _ _ _ (Nat.lt_succ_self l) hlt hnext] using hrest
    · cases hnext.symm.trans hd
      simp [bind, Except.bind, hs, pure, Except.pure]

end

/-- Settles O30: `decode` tries the code words of the bits from the shortest on. -/
theorem huffmanCodesAreReadHighBitFirst : Obligations.HuffmanCodesAreReadHighBitFirst := by
  intro T r spelled
  have hspelled {k c : Nat} : spelled k c ↔ ∃ r', r.codeBits k = .ok (c, r') := by
    simp only [codeBits_eq_ok, Mirrored]
    constructor
    · rintro ⟨hc, v, r', hv, hj⟩
      exact ⟨r', v, hv, hc, hj⟩
    · rintro ⟨r', v, hv, hc, hj⟩
      exact ⟨hc, v, r', hv, hj⟩
  have hsound {sym : Nat} {r' : BitReader} (h : T.decode r = .ok (sym, r')) :
      ∃ e ∈ T, e.sym = sym ∧ 1 ≤ e.len ∧ e.len ≤ 15 ∧ r.codeBits e.len = .ok (e.code, r') := by
    obtain ⟨n, d, hlo, hhi, hd, hs⟩ := codeBits_of_decodeFrom (l := 0) rfl h
    obtain ⟨e, he, rfl, rfl, hsym⟩ := lookup_eq_some hs
    exact ⟨e, he, hsym, hlo, by omega, hd⟩
  refine ⟨fun sym r' h => ?_, fun e he v r' hlo hhi hsp hv hu hshort => ?_, fun hnone => ?_⟩
  · obtain ⟨e, he, hsym, hlo, hhi, hread⟩ := hsound h
    obtain ⟨v, hv, -⟩ := codeBits_eq_ok.1 hread
    exact ⟨e, he, hsym, hlo, hhi, hspelled.2 ⟨r', hread⟩, v, hv⟩
  · obtain ⟨q, hq⟩ := hspelled.1 hsp
    obtain ⟨w, hw, -⟩ := codeBits_eq_ok.1 hq
    cases hw.symm.trans hv
    refine decodeFrom_of_codeBits (l := 0) rfl hlo (by omega) hq (lookup_of_unique he hu) fun m d q' hm hlt hread => ?_
    refine lookup_eq_none.2 fun f hf => ?_
    rintro ⟨rfl, rfl⟩
    exact hshort f hf hm hlt (hspelled.2 ⟨q', hread⟩)
  · cases h : T.decode r with
    | error e => exact ⟨e, rfl⟩
    | ok p =>
      obtain ⟨e, he, -, hlo, hhi, hread⟩ := hsound h
      exact absurd (hspelled.2 ⟨_, hread⟩) (hnone e he hlo hhi)

end Sys2Proof.Machine
end

section
/-!
PROOFS. The block headers (43_inflate.md R196, R200–R202): stored blocks (O22) and the header of a dynamic block (O24).
-/

namespace Sys2Proof.Machine

/-! ## Stored blocks -/

theorem bytes_of_le {r : BitReader} {n : Nat} (h : r.q + n ≤ r.src.length) :
    r.bytes n = .ok (slice r.src r.q (r.q + n), { r with q := r.q + n }) := if_pos h

theorem bytes_of_gt {r : BitReader} {n : Nat} (h : r.src.length < r.q + n) : r.bytes n = .error .trunc :=
  if_neg (Nat.not_le.2 h)

theorem byteAt_slice {b : Bytes} {i n k : Nat} (hk : k < n) : byteAt (slice b i (i + n)) k = byteAt b (i + k) := by
  rw [byteAt, byteAt, List.getD_eq_getElem?_getD, List.getD_eq_getElem?_getD, getElem?_slice hk]

/-- The complement of a 16-bit number. -/
theorem xor_ffff (x : BitVec 16) : x.toNat ^^^ 0xFFFF = 65535 - x.toNat := by
  have h := BitVec.toNat_not (x := x)
  rwa [← BitVec.xor_allOnes, BitVec.toNat_xor] at h

/-- Behind the length fields a stored block is its bytes (43_inflate.md R196). -/
theorem Inflate.storedBlock_of_fields {z : Inflate} {h : Bytes} {r : BitReader} (hh : z.br.align.bytes 4 = .ok (h, r))
    (final : Bool) :
    z.storedBlock final =
      if (u16le h 2).toNat ≠ (u16le h 0).toNat ^^^ 0xFFFF then .error .nlen
      else r.bytes (u16le h 0).toNat >>= fun p =>
        .ok ((({ z with final := final }.setReader p.2).emit p.1).endBlock) := by
  rw [Inflate.storedBlock, bind_of_ok hh]
  rfl

/-- The length field of a stored block at an aligned reader, and its complement behind it (43_inflate.md R196). -/
theorem Inflate.storedBlock_of_room {z : Inflate} {q len nlen : Nat}
    (halign : z.br.align = { src := z.br.src, q := q, t := 0 }) (hroom : q + 4 ≤ z.br.src.length)
    (hlen : (byteAt z.br.src q).toNat + 256 * (byteAt z.br.src (q + 1)).toNat = len)
    (hnlen : (byteAt z.br.src (q + 2)).toNat + 256 * (byteAt z.br.src (q + 3)).toNat = nlen) (final : Bool) :
    z.storedBlock final =
      if nlen ≠ 65535 - len then .error .nlen
      else BitReader.bytes len { src := z.br.src, q := q + 4, t := 0 } >>= fun p =>
        .ok ((({ z with final := final }.setReader p.2).emit p.1).endBlock) := by
  let h := slice z.br.src q (q + 4)
  have hfields : z.br.align.bytes 4 = .ok (h, { src := z.br.src, q := q + 4, t := 0 }) := by
    rw [halign, bytes_of_le hroom]
  have hfirst : (u16le h 0).toNat = len := by
    rw [u16le_toNat, byteAt_slice (by decide), byteAt_slice (by decide)]
    exact hlen
  have hsecond : (u16le h 2).toNat = nlen := by
    rw [u16le_toNat, byteAt_slice (by decide), byteAt_slice (by decide)]
    exact hnlen
  rw [Inflate.storedBlock_of_fields hfields final, xor_ffff, hfirst, hsecond]

/-- Settles O22: the fields are read behind the alignment, and then the bytes they announce. -/
theorem storedBlockAppendsItsBytes : Obligations.StoredBlockAppendsItsBytes := by
  intro final s fpos z he hm q len nlen good
  have hctx : z.context = some (formatOf (.dflStored final)) := by rw [Inflate.context, hm]; rfl
  have halign : z.br.align = { src := z.br.src, q := q, t := 0 } := align_eq z.br
  by_cases h4 : q + 4 ≤ z.br.src.length
  · have heq := Inflate.storedBlock_of_room halign h4 (len := len) (nlen := nlen) rfl rfl final
    refine ⟨fun hgood => ?_, fun hbad => ?_⟩
    · obtain ⟨hroom, hcompl⟩ := hgood
      have hdata : (slice z.br.src (q + 4) (q + 4 + len)).length = len := by
        rw [slice_length]
        omega
      rw [if_neg (not_not.2 hcompl), bind_of_ok (bytes_of_le hroom)] at heq
      refine ⟨_, exec_inflate_of_ok he hctx rfl heq, rfl, ?_, fun i hi => ?_, fun i hi => ?_, ?_, rfl, rfl⟩
      · exact List.length_append.trans (congrArg _ hdata)
      · exact List.getElem?_append_left hi
      · refine (List.getElem?_append_right (Nat.le_add_right _ _)).trans ?_
        rw [Nat.add_sub_cancel_left, getElem?_slice hi]
      · exact congrArg z.adler.feed List.drop_left.symm
    · by_cases hcompl : nlen = 65535 - len
      · have hshort : z.br.src.length < q + 4 + len := Nat.lt_of_not_le fun hroom => hbad ⟨hroom, hcompl⟩
        rw [if_neg (not_not.2 hcompl), bind_of_error (bytes_of_gt hshort)] at heq
        exact exec_inflate_of_error he hctx rfl heq
      · rw [if_pos hcompl] at heq
        exact exec_inflate_of_error he hctx rfl heq
  · have hshort : z.br.align.bytes 4 = .error .trunc := by
      rw [halign, bytes_of_gt (Nat.lt_of_not_le h4)]
    refine ⟨fun hgood => ?_, fun _ => exec_inflate_of_error he hctx rfl (bind_of_error hshort _)⟩
    obtain ⟨hroom, -⟩ := hgood
    omega

/-! ## Fields of bits -/

/-- Bits read in one go are two fields, the first one lowest. -/
theorem bits_add (m n : Nat) (r : BitReader) :
    r.bits (m + n) = r.bits m >>= fun p => p.2.bits n >>= fun q => .ok (p.1 + 2 ^ m * q.1, q.2) := by
  induction m generalizing r with
  | zero =>
    rw [Nat.zero_add, BitReader.bits]
    cases h : r.bits n with
    | error e => simp [bind, Except.bind, h]
    | ok q => simp [bind, Except.bind, h]
  | succ m ih =>
    rw [Nat.add_right_comm, bits_cons, bits_cons]
    cases r.bit with
    | error e => rfl
    | ok p =>
      simp only [bind, Except.bind, ih]
      cases p.2.bits m with
      | error e => rfl
      | ok q =>
        cases hn : q.2.bits n with
        | error e => simp [hn]
        | ok w => simp [hn, pow_succ]; ring

/-- Two fields read in one go are read one after the other. -/
theorem bits_add_eq_ok {m n v : Nat} {r r' : BitReader} (h : r.bits (m + n) = .ok (v, r')) :
    ∃ q, r.bits m = .ok (v % 2 ^ m, q) ∧ q.bits n = .ok (v / 2 ^ m, r') := by
  rw [bits_add] at h
  obtain ⟨⟨a, q⟩, ha, h⟩ := bind_eq_ok.1 h
  obtain ⟨⟨b, q'⟩, hb, h⟩ := bind_eq_ok.1 h
  cases h
  have hlt := bits_lt ha
  refine ⟨q, ?_, ?_⟩
  · rw [Nat.add_mul_mod_self_left, Nat.mod_eq_of_lt hlt, ha]
  · rw [Nat.add_mul_div_left _ _ (Nat.two_pow_pos m), Nat.div_eq_of_lt hlt, Nat.zero_add]
    exact hb

/-- Where two fields cannot be read in one go, the first or the second is missing. -/
theorem bits_add_eq_error {m n : Nat} {r : BitReader} {e : InflateFail} (h : r.bits (m + n) = .error e) :
    r.bits m = .error e ∨ ∃ v q, r.bits m = .ok (v, q) ∧ q.bits n = .error e := by
  rw [bits_add] at h
  cases hm : r.bits m with
  | error e' =>
    rw [bind_of_error hm] at h
    cases h
    exact .inl rfl
  | ok p =>
    rw [bind_of_ok hm] at h
    cases hn : p.2.bits n with
    | error e' =>
      rw [bind_of_error hn] at h
      cases h
      exact .inr ⟨p.1, p.2, rfl, hn⟩
    | ok q =>
      rw [bind_of_ok hn] at h
      cases h

/-! ## The code-length code lengths -/

/-- The lengths with the entries of `order` set to the successive three bits of `w` (43_inflate.md R201). -/
def setLengths : List Nat → List Nat → Nat → List Nat
  | [], cl, _ => cl
  | i :: order, cl, w => setLengths order (cl.set i (w % 8)) (w / 8)

theorem readClLengths_of_ok {order cl : List Nat} {r r' : BitReader} {w : Nat}
    (h : r.bits (3 * order.length) = .ok (w, r')) : readClLengths order cl r = .ok (setLengths order cl w, r') := by
  induction order generalizing cl r w with
  | nil => cases h; rfl
  | cons i order ih =>
    rw [List.length_cons, Nat.mul_succ, Nat.add_comm] at h
    obtain ⟨q, hfirst, hrest⟩ := bits_add_eq_ok h
    rw [readClLengths, bind_of_ok hfirst]
    exact ih hrest

theorem readClLengths_of_error {order cl : List Nat} {r : BitReader} {e : InflateFail}
    (h : r.bits (3 * order.length) = .error e) : readClLengths order cl r = .error e := by
  induction order generalizing cl r with
  | nil => cases h
  | cons i order ih =>
    rw [List.length_cons, Nat.mul_succ, Nat.add_comm] at h
    rw [readClLengths]
    obtain hfirst | ⟨v, q, hfirst, hrest⟩ := bits_add_eq_error h
    · exact bind_of_error hfirst _
    · rw [bind_of_ok hfirst]
      exact ih hrest

theorem setLengths_length (order cl : List Nat) (w : Nat) : (setLengths order cl w).length = cl.length := by
  induction order generalizing cl w with
  | nil => rfl
  | cons i order ih => rw [setLengths, ih, List.length_set]

theorem getElem?_setLengths_of_not_mem {order cl : List Nat} {w j : Nat} (hj : j ∉ order) :
    (setLengths order cl w)[j]? = cl[j]? := by
  induction order generalizing cl w with
  | nil => rfl
  | cons i order ih =>
    rw [List.mem_cons, not_or] at hj
    obtain ⟨hne, hj⟩ := hj
    rw [setLengths, ih hj, List.getElem?_set_ne (Ne.symm hne)]

theorem getElem?_setLengths {order cl : List Nat} {w i : Nat} (hnodup : order.Nodup) (hin : ∀ j ∈ order, j < cl.length)
    (hi : i < order.length) : (setLengths order cl w)[order.getD i 0]? = some (w / 8 ^ i % 8) := by
  induction order generalizing cl w i with
  | nil => exact absurd hi (Nat.not_lt_zero i)
  | cons j order ih =>
    obtain ⟨hj, hnodup⟩ := List.nodup_cons.1 hnodup
    rw [setLengths]
    cases i with
    | zero =>
      rw [List.getD_cons_zero, getElem?_setLengths_of_not_mem hj,
        List.getElem?_set_self (hin j List.mem_cons_self), Nat.pow_zero, Nat.div_one]
    | succ i =>
      rw [List.getD_cons_succ, ih hnodup (fun k hk => by rw [List.length_set]; exact hin k (List.mem_cons_of_mem _ hk))
        (Nat.lt_of_succ_lt_succ hi), Nat.div_div_eq_div_mul, pow_succ']

theorem clOrder_nodup : clOrder.Nodup := by decide

theorem clOrder_lt : ∀ j ∈ clOrder, j < 19 := by decide

section
variable {ncl w i : Nat}

/-- The first `ncl` places of ORDER hold what was read. -/
theorem getElem?_setLengths_clOrder (hncl : ncl ≤ 19) (hi : i < ncl) :
    (setLengths (clOrder.take ncl) (List.replicate 19 0) w)[clOrder.getD i 0]? = some (w / 8 ^ i % 8) := by
  have hplace : (clOrder.take ncl).getD i 0 = clOrder.getD i 0 := by
    rw [List.getD_eq_getElem?_getD, List.getElem?_take_of_lt hi, ← List.getD_eq_getElem?_getD]
  rw [← hplace]
  refine getElem?_setLengths (clOrder_nodup.sublist (List.take_sublist _ _)) (fun j hj => ?_) ?_
  · rw [List.length_replicate]
    exact clOrder_lt j (List.mem_of_mem_take hj)
  · rw [List.length_take]
    exact Nat.lt_min.2 ⟨hi, Nat.lt_of_lt_of_le hi hncl⟩

/-- The other places of ORDER hold 0. -/
theorem getElem?_setLengths_clOrder_rest (hi : ncl ≤ i) (hi' : i < 19) :
    (setLengths (clOrder.take ncl) (List.replicate 19 0) w)[clOrder.getD i 0]? = some 0 := by
  have hi' : i < clOrder.length := hi'
  have hplace : clOrder.getD i 0 = clOrder[i] := by
    rw [List.getD_eq_getElem?_getD, List.getElem?_eq_getElem hi', Option.getD_some]
  have hdrop : clOrder[i] ∈ clOrder.drop ncl := by
    rw [List.mem_drop_iff_getElem]
    exact ⟨i - ncl, by omega, by simp [Nat.add_sub_cancel' hi]⟩
  rw [hplace, getElem?_setLengths_of_not_mem fun h => List.disjoint_take_drop clOrder_nodup (Nat.le_refl ncl) h hdrop,
    List.getElem?_replicate_of_lt (clOrder_lt _ (List.getElem_mem _))]

end

/-! ## Dynamic blocks -/

/-- Where the three counts of a dynamic header are read, they are checked, and the code-length code follows
(43_inflate.md R200–R202). -/
theorem Inflate.dynamicBlock_of_counts {z : Inflate} {v : Nat} {r : BitReader} (h : z.br.bits 14 = .ok (v, r))
    (final : Bool) :
    z.dynamicBlock final =
      if 286 < v % 32 + 257 ∨ 30 < v / 32 % 32 + 1 then .error .tooMany
      else readClLengths (clOrder.take (v / 1024 + 4)) (List.replicate 19 0) r >>= fun p =>
        buildCode p.1 .cl >>= fun clt =>
          .ok { z with
            br := p.2, final := final, mode := .lengths (v % 32 + 257) (v / 32 % 32 + 1) clt [] } := by
  obtain ⟨q, hlit, h⟩ := bits_add_eq_ok (m := 5) (n := 9) h
  obtain ⟨q', hdist, hclen⟩ := bits_add_eq_ok (m := 5) (n := 4) h
  rw [Nat.div_div_eq_div_mul] at hclen
  rw [Inflate.dynamicBlock, bind_of_ok hlit]
  dsimp only
  rw [bind_of_ok hdist]
  dsimp only
  rw [bind_of_ok hclen]
  rfl

/-- Where a bit of the three counts is missing, the header fails. -/
theorem Inflate.dynamicBlock_of_error {z : Inflate} {e : InflateFail} (h : z.br.bits 14 = .error e) (final : Bool) :
    z.dynamicBlock final = .error e := by
  rw [Inflate.dynamicBlock]
  obtain hlit | ⟨v, q, hlit, h⟩ := bits_add_eq_error (m := 5) (n := 9) h
  · exact bind_of_error hlit _
  · rw [bind_of_ok hlit]
    dsimp only
    obtain hdist | ⟨v, q', hdist, hclen⟩ := bits_add_eq_error (m := 5) (n := 4) h
    · exact bind_of_error hdist _
    · rw [bind_of_ok hdist]
      exact bind_of_error hclen _

/-- Settles O24: the counts, then the code-length code lengths in ORDER, then the code. -/
theorem dynamicHeaderIsRead : Obligations.DynamicHeaderIsRead := by
  intro final s fpos z he hm
  have hctx : z.context = some (formatOf (.dflDynamic final)) := by rw [Inflate.context, hm]; rfl
  refine ⟨fun e h => exec_inflate_of_error he hctx rfl (Inflate.dynamicBlock_of_error h final), ?_⟩
  intro v r hv nlit ndist ncl
  have heq := Inflate.dynamicBlock_of_counts hv final
  refine ⟨fun hmany => exec_inflate_of_error he hctx rfl (heq.trans (if_pos hmany)), fun hlit hdist => ?_⟩
  have hncl : ncl ≤ 19 := by
    have hlt := bits_lt hv
    change v / 1024 + 4 ≤ 19
    omega
  have hcount : (clOrder.take ncl).length = ncl := (List.length_take ..).trans (Nat.min_eq_left hncl)
  have heq := heq.trans (if_neg (not_or.2 ⟨Nat.not_lt.2 hlit, Nat.not_lt.2 hdist⟩))
  refine ⟨fun e hr => ?_, fun w r' hr => ?_⟩
  · rw [← hcount] at hr
    exact exec_inflate_of_error he hctx rfl (heq.trans (bind_of_error (readClLengths_of_error hr) _))
  · rw [← hcount] at hr
    have heq := heq.trans (bind_of_ok (readClLengths_of_ok hr) _)
    exact ⟨_, setLengths_length .., fun i hi => getElem?_setLengths_clOrder hncl hi,
      fun i hi hi' => getElem?_setLengths_clOrder_rest hi hi',
      fun clt hclt => exec_inflate_of_ok he hctx rfl (heq.trans (bind_of_ok hclt _)),
      fun e hclt => exec_inflate_of_error he hctx rfl (heq.trans (bind_of_error hclt _))⟩

end Sys2Proof.Machine
end

section
/-!
PROOFS. The transitions of the deflate decoder that are no instruction (43_inflate.md R204, R205, R215–R218): the end of
the code lengths and the trailer (O29).
-/

namespace Sys2Proof.Machine

/-- The state after an effect on the payload: the decoder goes on, or the payload has failed (43_inflate.md R218). -/
def State.afterInflate (fpos : Nat) (s : State) : Except InflateFail Inflate → State
  | .ok z => s.setEngine (.inflating fpos z)
  | .error _ => s.inflateFailed fpos

/-- The state after a payload: its bytes are handed on, or it has failed (42_resolver.md R173). -/
def State.afterPayload (fpos : Nat) (s : State) : Except InflateFail Bytes → State
  | .ok d => (s.count Counters.incZlib).setEngine (.dispatching fpos d)
  | .error _ => s.inflateFailed fpos

/-! ## Tables -/

section
variable {z : Inflate} {nlit ndist : Nat} {lens : List Nat}

/-- A block without an end-of-block code fails (43_inflate.md R204). -/
theorem buildTables_of_no_end (h : lens.getD 256 0 = 0) : z.buildTables nlit ndist lens = .error .noEob := if_pos h

/-- With an end-of-block code the two codes decide (43_inflate.md R205). -/
theorem buildTables_of_end (h : lens.getD 256 0 ≠ 0) :
    z.buildTables nlit ndist lens =
      buildCode (lens.take nlit) .lit >>= fun lit =>
        buildCode ((lens.drop nlit).take ndist) .dist >>= fun dist => .ok (z.setMode (.body lit dist)) := if_neg h

/-- A bad code fails, whichever of the two it is. -/
theorem buildTables_of_error
    (h : (∃ e, buildCode (lens.take nlit) .lit = .error e) ∨
      ∃ e, buildCode ((lens.drop nlit).take ndist) .dist = .error e) :
    ∃ e, z.buildTables nlit ndist lens = .error e := by
  by_cases hend : lens.getD 256 0 = 0
  · exact ⟨_, buildTables_of_no_end hend⟩
  · rw [buildTables_of_end hend]
    cases hlit : buildCode (lens.take nlit) .lit with
    | error e => exact ⟨e, rfl⟩
    | ok lit =>
      rw [hlit] at h
      obtain ⟨e, ⟨⟩⟩ | ⟨e, he⟩ := h
      exact ⟨e, bind_of_error he _⟩

end

/-! ## The trailer -/

theorem checkTrailer_eq (z : Inflate) :
    z.checkTrailer = z.br.align.bytes 4 >>= fun p =>
      if (u32be p.1 0).toNat ≠ z.adler.value then .error .adler else .ok z.out := rfl

/-- Four bytes at an aligned reader, as a big-endian number (43_inflate.md R215). -/
theorem bytes_four {src rest : Bytes} {q : Nat} {a b c d : Byte} (h : src.drop q = a :: b :: c :: d :: rest) :
    BitReader.bytes 4 { src := src, q := q, t := 0 } = .ok ([a, b, c, d], { src := src, q := q + 4, t := 0 }) := by
  have hlen := congrArg List.length h
  simp only [List.length_drop, List.length_cons] at hlen
  have hslice : slice src q (q + 4) = [a, b, c, d] := by
    rw [slice, List.drop_take, Nat.add_sub_cancel_left, h]
    rfl
  rw [bytes_of_le (show q + 4 ≤ src.length by omega), hslice]

/-- The trailer is compared with the running checksum (43_inflate.md R215, R216). -/
theorem checkTrailer_of_drop {z : Inflate} {rest : Bytes} {q : Nat} {a b c d : Byte}
    (halign : z.br.align = { src := z.br.src, q := q, t := 0 }) (h : z.br.src.drop q = a :: b :: c :: d :: rest) :
    z.checkTrailer =
      if a.toNat * 2 ^ 24 + b.toNat * 2 ^ 16 + c.toNat * 2 ^ 8 + d.toNat ≠ z.adler.value then .error .adler
      else .ok z.out := by
  rw [checkTrailer_eq, halign, bind_of_ok (bytes_four h), u32be_toNat]
  rfl

theorem checkTrailer_of_short {z : Inflate} {q : Nat} (halign : z.br.align = { src := z.br.src, q := q, t := 0 })
    (h : z.br.src.length < q + 4) : z.checkTrailer = .error .trunc := by
  rw [checkTrailer_eq, halign, bind_of_error (bytes_of_gt h)]

/-! ## The steps -/

section
variable {s : State} {fpos : Nat} {z : Inflate} (he : s.engine = .inflating fpos z)
include he

theorem engineStep_inflateTau (hf : z.fetch = none) : engineStep s = .next (s.inflateTau fpos z) := by
  simp [engineStep, State.fetch, State.tau, he, hf]

/-- With the lengths complete, the decoder builds the codes. -/
theorem engineStep_tables {nlit ndist : Nat} {clt : HuffCode} {lens : List Nat}
    (hm : z.mode = .lengths nlit ndist clt lens) (hl : nlit + ndist ≤ lens.length) :
    engineStep s = .next (s.afterInflate fpos (z.buildTables nlit ndist lens)) := by
  have hf : z.fetch = none := by simp [Inflate.fetch, hm, Nat.not_lt.2 hl]
  rw [engineStep_inflateTau he hf]
  cases hz : z.buildTables nlit ndist lens <;>
    simp [State.inflateTau, State.afterInflate, hm, Nat.not_lt.2 hl, hz]

/-- At the trailer the decoder checks it. -/
theorem engineStep_trailer (hm : z.mode = .trailer) :
    engineStep s = .next (s.afterPayload fpos z.checkTrailer) := by
  have hf : z.fetch = none := by simp [Inflate.fetch, hm]
  rw [engineStep_inflateTau he hf]
  cases hz : z.checkTrailer <;> simp [State.inflateTau, State.afterPayload, hm, hz]

end

/-- Settles O29: the step behind the lengths builds the codes, and the step at the trailer compares the checksum. -/
theorem tablesAndTrailerDecideThePayload : Obligations.TablesAndTrailerDecideThePayload := by
  intro s fpos z he
  refine ⟨fun nlit ndist clt lens hm hl => ?_, fun hm hadler => ?_⟩
  · have hstep := engineStep_tables he hm hl
    refine ⟨fun hend => ?_, fun hend lit dist hlit hdist => ?_, fun e hlit => ?_, fun e hdist => ?_⟩
    · rw [hstep, buildTables_of_no_end hend]
      rfl
    · rw [hstep, buildTables_of_end hend, bind_of_ok hlit, bind_of_ok hdist]
      rfl
    · obtain ⟨e', hfail⟩ := buildTables_of_error (z := z) (.inl ⟨e, hlit⟩)
      rw [hstep, hfail]
      rfl
    · obtain ⟨e', hfail⟩ := buildTables_of_error (z := z) (.inr ⟨e, hdist⟩)
      rw [hstep, hfail]
      rfl
  · intro q
    have hstep := engineStep_trailer he hm
    have halign : z.br.align = { src := z.br.src, q := q, t := 0 } := align_eq z.br
    refine ⟨fun a b c d rest hdrop => ?_, fun hshort => ?_⟩
    · rw [checkTrailer_of_drop halign hdrop, show z.adler.value = adler32 z.out by rw [hadler]; rfl] at hstep
      refine ⟨fun heq => ?_, fun hne => ?_⟩
      · rw [hstep, if_neg (not_not.2 heq)]
        rfl
      · rw [hstep, if_pos hne]
        rfl
    · rw [hstep, checkTrailer_of_short halign hshort]
      rfl

end Sys2Proof.Machine
end

section
/-!
PROOFS. The engine's inflate steps and the spec's `inflate` (43_inflate.md R191): the rounds the two have in common,
that every round moves the reader on (R219), and that the steps reach the result of `inflate` (O32).
-/

namespace Sys2Proof.Machine

/-! ## The rounds of the loops -/

/-- A distance symbol with its extra bits and the copy (43_inflate.md R211, R213). -/
def readCopy (dist : HuffCode) (len : Nat) (r : BitReader) (out : Bytes) : Except InflateFail (BitReader × Bytes) :=
  dist.decode r >>= fun p =>
    if p.1 ≤ 29 then
      readDistance p.1 p.2 >>= fun q => if out.length < q.1 then .error .far else .ok (q.2, copyBack q.1 len out)
    else .error .badDistSym

/-- One round of `huffmanBlock`: whether the block has ended, the reader and the output (43_inflate.md R206). -/
def bodyRound (lit dist : HuffCode) (r : BitReader) (out : Bytes) : Except InflateFail (Bool × BitReader × Bytes) :=
  lit.decode r >>= fun p =>
    if p.1 ≤ 255 then .ok (false, p.2, out ++ [BitVec.ofNat 8 p.1])
    else if p.1 = 256 then .ok (true, p.2, out)
    else if p.1 ≤ 285 then
      readLength p.1 p.2 >>= fun q => readCopy dist q.1 q.2 out >>= fun c => .ok (false, c)
    else .error .badLenSym

theorem huffmanBlock_succ (lit dist : HuffCode) (k : Nat) (r : BitReader) (out : Bytes) :
    huffmanBlock lit dist (k + 1) r out =
      bodyRound lit dist r out >>= fun p => if p.1 then .ok p.2 else huffmanBlock lit dist k p.2.1 p.2.2 := by
  rw [huffmanBlock, bodyRound, bind_assoc]
  refine bind_congr fun ⟨v, r1⟩ => ?_
  dsimp only
  split_ifs
  · rfl
  · rfl
  · rw [bind_assoc]
    refine bind_congr fun ⟨len, r2⟩ => ?_
    rw [readCopy, bind_assoc, bind_assoc]
    refine bind_congr fun ⟨ds, r3⟩ => ?_
    dsimp only
    split_ifs
    · rw [bind_assoc]
      refine bind_congr fun ⟨d, r4⟩ => ?_
      dsimp only
      split_ifs <;> rfl
    · rfl
  · rfl

/-- One round of `readLengths` (43_inflate.md R203). -/
def lengthsRound (clt : HuffCode) (total : Nat) (lens : List Nat) (r : BitReader) :
    Except InflateFail (List Nat × BitReader) :=
  clt.decode r >>= fun p => readClSymbol p.1 lens p.2 >>= fun q =>
    if total < (lens ++ q.1).length then .error .repeatOverflow else .ok (lens ++ q.1, q.2)

theorem readLengths_succ (clt : HuffCode) (total k : Nat) (lens : List Nat) (r : BitReader) :
    readLengths clt total (k + 1) lens r =
      if lens.length < total then lengthsRound clt total lens r >>= fun p => readLengths clt total k p.1 p.2
      else .ok (lens, r) := by
  rw [readLengths]
  split_ifs
  · rw [lengthsRound, bind_assoc]
    refine bind_congr fun ⟨v, r1⟩ => ?_
    rw [bind_assoc]
    refine bind_congr fun ⟨more, r2⟩ => ?_
    dsimp only
    split_ifs <;> rfl
  · rfl

/-- A dynamic block's counts and its code-length code (43_inflate.md R200–R202). -/
def dynamicCounts (r : BitReader) : Except InflateFail (Nat × Nat × HuffCode × BitReader) :=
  r.bits 5 >>= fun a => a.2.bits 5 >>= fun b => b.2.bits 4 >>= fun c =>
    if 286 < a.1 + 257 ∨ 30 < b.1 + 1 then .error .tooMany
    else readClLengths (clOrder.take (c.1 + 4)) (List.replicate 19 0) c.2 >>= fun d =>
      buildCode d.1 .cl >>= fun clt => .ok (a.1 + 257, b.1 + 1, clt, d.2)

/-- The codes of a dynamic block from its lengths (43_inflate.md R204, R205). -/
def blockCodes (nlit ndist : Nat) (lens : List Nat) : Except InflateFail (HuffCode × HuffCode) :=
  if lens.getD 256 0 = 0 then .error .noEob
  else
    buildCode (lens.take nlit) .lit >>= fun lit =>
      buildCode ((lens.drop nlit).take ndist) .dist >>= fun dist => .ok (lit, dist)

theorem dynamicTables_eq (r : BitReader) :
    dynamicTables r =
      dynamicCounts r >>= fun c => readLengths c.2.2.1 (c.1 + c.2.1) (c.1 + c.2.1 + 1) [] c.2.2.2 >>= fun p =>
        blockCodes c.1 c.2.1 p.1 >>= fun t => .ok (t.1, t.2, p.2) := by
  rw [dynamicTables, dynamicCounts, bind_assoc]
  refine bind_congr fun ⟨hlit, r1⟩ => ?_
  rw [bind_assoc]
  refine bind_congr fun ⟨hdist, r2⟩ => ?_
  rw [bind_assoc]
  refine bind_congr fun ⟨hclen, r3⟩ => ?_
  dsimp only
  split_ifs
  · rfl
  · rw [bind_assoc]
    refine bind_congr fun ⟨cl, r4⟩ => ?_
    rw [bind_assoc]
    refine bind_congr fun clt => bind_congr fun ⟨lens, r5⟩ => ?_
    dsimp only [blockCodes]
    split_ifs
    · rfl
    · simp only [bind_assoc]
      rfl

theorem Inflate.dynamicBlock_eq (final : Bool) (z : Inflate) :
    z.dynamicBlock final =
      dynamicCounts z.br >>= fun c =>
        .ok { z with br := c.2.2.2, final := final, mode := .lengths c.1 c.2.1 c.2.2.1 [] } := by
  rw [Inflate.dynamicBlock, dynamicCounts, bind_assoc]
  refine bind_congr fun ⟨hlit, r1⟩ => ?_
  rw [bind_assoc]
  refine bind_congr fun ⟨hdist, r2⟩ => ?_
  rw [bind_assoc]
  refine bind_congr fun ⟨hclen, r3⟩ => ?_
  dsimp only
  split_ifs
  · rfl
  · simp only [bind_assoc]
    rfl

theorem Inflate.buildTables_eq (nlit ndist : Nat) (lens : List Nat) (z : Inflate) :
    z.buildTables nlit ndist lens = blockCodes nlit ndist lens >>= fun t => .ok (z.setMode (.body t.1 t.2)) := by
  rw [Inflate.buildTables, blockCodes]
  split_ifs
  · rfl
  · simp only [bind_assoc]
    rfl

/-- A block behind its three header bits (43_inflate.md R191). -/
def blockBody (n btype : Nat) (r : BitReader) (out : Bytes) : Except InflateFail (BitReader × Bytes) :=
  if btype = 0 then storedBlock r out
  else if btype = 1 then huffmanBlock fixedLit fixedDist n r out
  else if btype = 2 then dynamicTables r >>= fun t => huffmanBlock t.1 t.2.1 n t.2.2 out
  else .error .btype

/-- One round of the block loop: whether the block was the final one, the reader and the output (43_inflate.md R191). -/
def blockRound (n : Nat) (r : BitReader) (out : Bytes) : Except InflateFail (Bool × BitReader × Bytes) :=
  r.bits 1 >>= fun a => a.2.bits 2 >>= fun b => blockBody n b.1 b.2 out >>= fun c => .ok (decide (a.1 = 1), c)

theorem inflateBlocks_succ (n k : Nat) (r : BitReader) (out : Bytes) :
    inflateBlocks n (k + 1) r out =
      blockRound n r out >>= fun p => if p.1 then .ok p.2 else inflateBlocks n k p.2.1 p.2.2 := by
  rw [inflateBlocks, blockRound, bind_assoc]
  refine bind_congr fun ⟨bfinal, r1⟩ => ?_
  rw [bind_assoc]
  refine bind_congr fun ⟨btype, r2⟩ => ?_
  rw [bind_assoc]
  have hend (c : BitReader × Bytes) :
      (Except.ok (decide (bfinal = 1), c) >>= fun p => if p.1 then .ok p.2 else inflateBlocks n k p.2.1 p.2.2) =
        if bfinal = 1 then pure (c.1, c.2) else inflateBlocks n k c.1 c.2 := by
    simp only [ok_bind, decide_eq_true_eq]
    rfl
  simp only [hend]
  dsimp only [blockBody]
  by_cases h0 : btype = 0
  · rw [if_pos h0, if_pos h0]
  by_cases h1 : btype = 1
  · rw [if_neg h0, if_pos h1, if_neg h0, if_pos h1]
  by_cases h2 : btype = 2
  · rw [if_neg h0, if_neg h1, if_pos h2, if_neg h0, if_neg h1, if_pos h2, bind_assoc]
  · rw [if_neg h0, if_neg h1, if_neg h2, if_neg h0, if_neg h1, if_neg h2]

/-! ## The reader moves on -/

/-- The reader's position in bits. -/
def BitReader.pos (r : BitReader) : Nat := 8 * r.q + r.t

/-- From `r` the reader has come to `r'`, at least `n` bits on. -/
def Ahead (n : Nat) (r r' : BitReader) : Prop :=
  r.t < 8 → r'.src = r.src ∧ r'.t < 8 ∧ r.pos + n ≤ r'.pos

theorem Ahead.refl (r : BitReader) : Ahead 0 r r := fun ht => ⟨rfl, ht, Nat.le_refl _⟩

theorem Ahead.trans {m n : Nat} {r r' r'' : BitReader} (h : Ahead m r r') (h' : Ahead n r' r'') :
    Ahead (m + n) r r'' := by
  intro ht
  obtain ⟨hsrc, ht', hpos⟩ := h ht
  obtain ⟨hsrc', ht'', hpos'⟩ := h' ht'
  exact ⟨hsrc'.trans hsrc, ht'', by omega⟩

theorem Ahead.mono {m n : Nat} {r r' : BitReader} (h : Ahead n r r') (hmn : m ≤ n) : Ahead m r r' := by
  intro ht
  obtain ⟨hsrc, ht', hpos⟩ := h ht
  exact ⟨hsrc, ht', by omega⟩

section
variable {r r' : BitReader} {n v : Nat}

theorem ahead_bits (h : r.bits n = .ok (v, r')) : Ahead n r r' := by
  intro ht
  obtain ⟨-, hsrc, ht', hpos⟩ := bits_eq_ok h ht
  exact ⟨hsrc, ht', Nat.le_of_eq hpos.symm⟩

theorem ahead_decode {T : HuffCode} (h : T.decode r = .ok (v, r')) : Ahead 1 r r' := by
  intro ht
  obtain ⟨hsrc, ht', hpos, -⟩ := decodeFrom_eq_ok h ht
  exact ⟨hsrc, ht', hpos⟩

theorem ahead_align (r : BitReader) : Ahead 0 r r.align := by
  intro ht
  rw [align_eq]
  refine ⟨rfl, Nat.zero_lt_succ 7, ?_⟩
  simp only [BitReader.pos]
  split_ifs <;> omega

theorem ahead_bytes {d : Bytes} (h : r.bytes n = .ok (d, r')) : Ahead 0 r r' := by
  unfold BitReader.bytes at h
  split at h <;> cases h
  exact fun ht => ⟨rfl, ht, by simp only [BitReader.pos]; omega⟩

theorem ahead_readLength {sym : Nat} (h : readLength sym r = .ok (v, r')) : Ahead 0 r r' := by
  unfold readLength at h
  split at h
  · obtain ⟨⟨e, q⟩, he, h⟩ := bind_eq_ok.1 h
    cases h
    exact (ahead_bits he).mono (Nat.zero_le _)
  · cases h

theorem ahead_readDistance {sym : Nat} (h : readDistance sym r = .ok (v, r')) : Ahead 0 r r' := by
  unfold readDistance at h
  split at h
  · obtain ⟨⟨e, q⟩, he, h⟩ := bind_eq_ok.1 h
    cases h
    exact (ahead_bits he).mono (Nat.zero_le _)
  · cases h

theorem ahead_readCopy {dist : HuffCode} {len : Nat} {out out' : Bytes} (h : readCopy dist len r out = .ok (r', out')) :
    Ahead 0 r r' := by
  obtain ⟨⟨ds, r1⟩, hds, h⟩ := bind_eq_ok.1 h
  dsimp only at h
  split_ifs at h
  obtain ⟨⟨d, r2⟩, hd, h⟩ := bind_eq_ok.1 h
  dsimp only at h
  split_ifs at h
  cases h
  exact ((ahead_decode hds).trans (ahead_readDistance hd)).mono (Nat.zero_le _)

/-- Every symbol takes at least one bit (43_inflate.md R219). -/
theorem ahead_bodyRound {lit dist : HuffCode} {out out' : Bytes} {done : Bool}
    (h : bodyRound lit dist r out = .ok (done, r', out')) : Ahead 1 r r' := by
  obtain ⟨⟨sym, r1⟩, hsym, h⟩ := bind_eq_ok.1 h
  have hsym := ahead_decode hsym
  dsimp only at h
  split_ifs at h
  · cases h
    exact hsym
  · cases h
    exact hsym
  · obtain ⟨⟨len, r2⟩, hlen, h⟩ := bind_eq_ok.1 h
    obtain ⟨⟨r3, out3⟩, hcopy, h⟩ := bind_eq_ok.1 h
    cases h
    exact (hsym.trans (ahead_readLength hlen)).trans (ahead_readCopy hcopy)

theorem ahead_huffmanBlock {lit dist : HuffCode} {k : Nat} {out out' : Bytes}
    (h : huffmanBlock lit dist k r out = .ok (r', out')) : Ahead 0 r r' := by
  induction k generalizing r out with
  | zero => cases h
  | succ k ih =>
    rw [huffmanBlock_succ] at h
    obtain ⟨⟨done, r1, out1⟩, hround, h⟩ := bind_eq_ok.1 h
    have hahead := (ahead_bodyRound hround).mono (Nat.zero_le _)
    cases done with
    | true => cases h; exact hahead
    | false => exact hahead.trans (ih h)

theorem ahead_storedBlock {out out' : Bytes} (h : storedBlock r out = .ok (r', out')) : Ahead 0 r r' := by
  obtain ⟨⟨hd, r1⟩, hfields, h⟩ := bind_eq_ok.1 h
  dsimp only at h
  split_ifs at h
  obtain ⟨⟨d, r2⟩, hdata, h⟩ := bind_eq_ok.1 h
  cases h
  exact ((ahead_align r).trans (ahead_bytes hfields)).trans (ahead_bytes hdata)

theorem ahead_readClLengths {order cl cl' : List Nat} (h : readClLengths order cl r = .ok (cl', r')) :
    Ahead 0 r r' := by
  induction order generalizing cl r with
  | nil => cases h; exact Ahead.refl _
  | cons i order ih =>
    obtain ⟨⟨v, r1⟩, hv, h⟩ := bind_eq_ok.1 h
    exact ((ahead_bits hv).mono (Nat.zero_le _)).trans (ih h)

theorem ahead_dynamicCounts {nlit ndist : Nat} {clt : HuffCode} (h : dynamicCounts r = .ok (nlit, ndist, clt, r')) :
    Ahead 0 r r' := by
  obtain ⟨⟨hlit, r1⟩, h1, h⟩ := bind_eq_ok.1 h
  obtain ⟨⟨hdist, r2⟩, h2, h⟩ := bind_eq_ok.1 h
  obtain ⟨⟨hclen, r3⟩, h3, h⟩ := bind_eq_ok.1 h
  dsimp only at h2 h3 h
  split_ifs at h
  obtain ⟨⟨cl, r4⟩, h4, h⟩ := bind_eq_ok.1 h
  obtain ⟨clt', -, h⟩ := bind_eq_ok.1 h
  cases h
  exact ((((ahead_bits h1).trans (ahead_bits h2)).trans (ahead_bits h3)).trans (ahead_readClLengths h4)).mono
    (Nat.zero_le _)

/-- A code-length symbol stands for at least one length. -/
theorem readClSymbol_eq_ok {sym : Nat} {lens more : List Nat} (h : readClSymbol sym lens r = .ok (more, r')) :
    0 < more.length ∧ Ahead 0 r r' := by
  have hrepeat {base ext l : Nat} (hbase : 0 < base)
      (h : (r.bits ext >>= fun p => .ok (List.replicate (base + p.1) l, p.2)) = Except.ok (more, r')) :
      0 < more.length ∧ Ahead 0 r r' := by
    obtain ⟨⟨n, q⟩, hn, h⟩ := bind_eq_ok.1 h
    cases h
    exact ⟨by rw [List.length_replicate]; omega, (ahead_bits hn).mono (Nat.zero_le _)⟩
  unfold readClSymbol at h
  split_ifs at h
  · cases h
    exact ⟨Nat.zero_lt_one, Ahead.refl r⟩
  · split at h
    · cases h
    · exact hrepeat (by decide) h
  · exact hrepeat (by decide) h
  · exact hrepeat (by decide) h

/-- A round reads more lengths, none beyond the announced number. -/
theorem lengthsRound_eq_ok {clt : HuffCode} {total : Nat} {lens lens' : List Nat}
    (h : lengthsRound clt total lens r = .ok (lens', r')) :
    lens.length < lens'.length ∧ lens'.length ≤ total ∧ Ahead 0 r r' := by
  obtain ⟨⟨sym, r1⟩, hsym, h⟩ := bind_eq_ok.1 h
  obtain ⟨⟨more, r2⟩, hmore, h⟩ := bind_eq_ok.1 h
  dsimp only at hmore h
  split_ifs at h with htotal
  cases h
  obtain ⟨hpos, hahead⟩ := readClSymbol_eq_ok hmore
  refine ⟨by rw [List.length_append]; omega, Nat.le_of_not_lt htotal, ?_⟩
  exact ((ahead_decode hsym).trans hahead).mono (Nat.zero_le _)

theorem ahead_readLengths {clt : HuffCode} {total k : Nat} {lens lens' : List Nat}
    (h : readLengths clt total k lens r = .ok (lens', r')) : Ahead 0 r r' := by
  induction k generalizing lens r with
  | zero => cases h
  | succ k ih =>
    rw [readLengths_succ] at h
    split_ifs at h
    · obtain ⟨⟨lens1, r1⟩, hround, h⟩ := bind_eq_ok.1 h
      obtain ⟨-, -, hahead⟩ := lengthsRound_eq_ok hround
      exact hahead.trans (ih h)
    · cases h
      exact Ahead.refl _

theorem ahead_dynamicTables {lit dist : HuffCode} (h : dynamicTables r = .ok (lit, dist, r')) : Ahead 0 r r' := by
  rw [dynamicTables_eq] at h
  obtain ⟨⟨nlit, ndist, clt, r1⟩, hcounts, h⟩ := bind_eq_ok.1 h
  obtain ⟨⟨lens, r2⟩, hlens, h⟩ := bind_eq_ok.1 h
  obtain ⟨t, -, h⟩ := bind_eq_ok.1 h
  cases h
  exact (ahead_dynamicCounts hcounts).trans (ahead_readLengths hlens)

theorem ahead_blockBody {btype : Nat} {out out' : Bytes} (h : blockBody n btype r out = .ok (r', out')) :
    Ahead 0 r r' := by
  unfold blockBody at h
  split_ifs at h
  · exact ahead_storedBlock h
  · exact ahead_huffmanBlock h
  · obtain ⟨⟨lit, dist, r1⟩, htables, h⟩ := bind_eq_ok.1 h
    exact (ahead_dynamicTables htables).trans (ahead_huffmanBlock h)

/-- Every block takes at least one bit (43_inflate.md R219). -/
theorem ahead_blockRound {final : Bool} {out out' : Bytes} (h : blockRound n r out = .ok (final, r', out')) :
    Ahead 1 r r' := by
  obtain ⟨⟨bfinal, r1⟩, h1, h⟩ := bind_eq_ok.1 h
  obtain ⟨⟨btype, r2⟩, h2, h⟩ := bind_eq_ok.1 h
  obtain ⟨⟨r3, out3⟩, hbody, h⟩ := bind_eq_ok.1 h
  cases h
  exact (((ahead_bits h1).trans (ahead_bits h2)).trans (ahead_blockBody hbody)).mono (by decide)

/-- `k` bits are enough for what is left to read from `r`. -/
def BitReader.Left (k : Nat) (r : BitReader) : Prop := r.t < 8 ∧ 8 * r.src.length ≤ r.pos + k

/-- A bit read is one less left. -/
theorem BitReader.Left.of_ahead {k : Nat} (hleft : r.Left (k + 1)) (h : Ahead 1 r r') : r'.Left k := by
  obtain ⟨ht, hle⟩ := hleft
  obtain ⟨hsrc, ht', hpos⟩ := h ht
  exact ⟨ht', by rw [hsrc]; omega⟩

/-- Where no bit is left, none is read. -/
theorem bit_of_left_zero (h : r.Left 0) : r.bit = .error .trunc := by
  obtain ⟨ht, hle⟩ := h
  have hq : r.src[r.q]? = none := by
    rw [List.getElem?_eq_none_iff]
    simp only [BitReader.pos] at hle
    omega
  simp only [BitReader.bit, hq]

theorem decode_of_left_zero {T : HuffCode} (h : r.Left 0) : T.decode r = .error .trunc := by
  rw [HuffCode.decode, HuffCode.decodeFrom, bind_of_error (bit_of_left_zero h)]

theorem bits_of_left_zero (h : r.Left 0) (n : Nat) : r.bits (n + 1) = .error .trunc := by
  rw [BitReader.bits, bind_of_error (bit_of_left_zero h)]

end

/-! ## Runs of engine steps -/

/-- Some number of engine steps leads from `s` to `t`. -/
def State.Reaches (s t : State) : Prop := ∃ k, engineRun k s = .next t

theorem State.Reaches.refl (s : State) : s.Reaches s := ⟨0, rfl⟩

theorem State.Reaches.of_step {s t : State} (h : engineStep s = .next t) : s.Reaches t :=
  ⟨1, by rw [engineRun, h, andThen_of_next, engineRun]⟩

theorem State.Reaches.trans {s t u : State} (h : s.Reaches t) (h' : t.Reaches u) : s.Reaches u := by
  obtain ⟨k, hk⟩ := h
  obtain ⟨j, hj⟩ := h'
  refine ⟨k + j, ?_⟩
  induction k generalizing s with
  | zero => cases hk; rwa [Nat.zero_add]
  | succ k ih =>
    obtain ⟨v, hv, hk⟩ := andThen_eq_next.1 hk
    rw [Nat.add_right_comm, engineRun, hv, andThen_of_next]
    exact ih hk

/-- The payload's inflate, standing at `z`, runs to where it stands at the result, or fails as the result does. -/
def State.InflatesTo (s : State) (fpos : Nat) (z : Inflate) (x : Except InflateFail Inflate) : Prop :=
  (s.setEngine (.inflating fpos z)).Reaches (s.afterInflate fpos x)

theorem State.InflatesTo.refl (s : State) (fpos : Nat) (z : Inflate) : s.InflatesTo fpos z (.ok z) :=
  State.Reaches.refl _

section
variable {s : State} {fpos : Nat} {z : Inflate}

theorem State.InflatesTo.trans {z' : Inflate} {x : Except InflateFail Inflate} (h : s.InflatesTo fpos z (.ok z'))
    (h' : s.InflatesTo fpos z' x) : s.InflatesTo fpos z x :=
  State.Reaches.trans h h'

/-- Runs follow one another as the spec's sequences do. -/
theorem State.InflatesTo.bind {α : Type} {x : Except InflateFail α} {f : α → Inflate}
    {g : α → Except InflateFail Inflate} (h : s.InflatesTo fpos z (x >>= fun a => .ok (f a)))
    (h' : ∀ a, x = .ok a → s.InflatesTo fpos (f a) (g a)) : s.InflatesTo fpos z (x >>= g) := by
  cases x with
  | error e => exact h
  | ok a => exact h.trans (h' a rfl)

/-- The step of an instruction read is its effect. -/
theorem inflatesTo_fetch {z' : Inflate} {i : Instr} {f : Inflate → Except InflateFail Inflate}
    (hf : z.fetch = some (i, z')) (hi : inflateEffect i = some f) : s.InflatesTo fpos z (f z') := by
  obtain ⟨⟨ctx, hctx, rfl, -⟩, r, rfl, -⟩ := Inflate.fetch_eq_some hf
  refine State.Reaches.of_step ?_
  rw [engineStep_of_fetch (fetch_inflating (s := s.setEngine (.inflating fpos z)) rfl hf)]
  cases hz : f (z.setReader r) with
  | ok z' => exact exec_inflate_of_ok (z := z.setReader r) rfl hctx hi hz
  | error e => exact exec_inflate_of_error (z := z.setReader r) rfl hctx hi hz

/-- Where nothing can be read and the format has not come to an end, the payload fails. -/
theorem inflatesTo_fails (hf : z.fetch = none) (htau : s.inflateTau fpos z = s.inflateFailed fpos) (e : InflateFail) :
    s.InflatesTo fpos z (.error e) := by
  refine State.Reaches.of_step ?_
  rw [engineStep_inflateTau (s := s.setEngine (.inflating fpos z)) rfl hf]
  have hunit : (s.setEngine (.inflating fpos z)).inflateTau fpos z = s.inflateTau fpos z := by
    simp only [State.inflateTau]
    split
    · split
      · rfl
      · split <;> rfl
    · split <;> rfl
    · rfl
  rw [hunit, htau]
  rfl

section
variable {T : HuffCode} {dec : Nat → Except DecodeError Instr} {v : Nat} {r : BitReader}
  (hz : z.fetch = readSymbol T dec z)
include hz

theorem inflatesTo_symbol {i : Instr} {f : Inflate → Except InflateFail Inflate} (hd : T.decode z.br = .ok (v, r))
    (hi : dec v = .ok i) (hf : inflateEffect i = some f) : s.InflatesTo fpos z (f (z.setReader r)) :=
  inflatesTo_fetch (hz.trans (readSymbol_of_decode hd hi)) hf

theorem inflatesTo_undecodable {e : InflateFail} (hd : T.decode z.br = .error e)
    (htau : s.inflateTau fpos z = s.inflateFailed fpos) : s.InflatesTo fpos z (.error e) :=
  inflatesTo_fails (hz.trans (by simp [readSymbol, hd])) htau e

theorem inflatesTo_noSymbol {e : DecodeError} (hd : T.decode z.br = .ok (v, r)) (hi : dec v = .error e)
    (htau : s.inflateTau fpos z = s.inflateFailed fpos) (e' : InflateFail) : s.InflatesTo fpos z (.error e') :=
  inflatesTo_fails (hz.trans (by simp [readSymbol, hd, hi, Except.toOption])) htau e'

end

end

/-! ## The rounds as engine steps -/

/-- The inflate state with this reader and output, its checksum that of the output (10_state.md R47). -/
def inflateAt (final : Bool) (mode : InflateMode) (r : BitReader) (out : Bytes) : Inflate :=
  { br := r, out := out, adler := AdlerSums.begin.feed out, final := final, mode := mode }

theorem emit_inflateAt (final : Bool) (mode : InflateMode) (r : BitReader) (out d : Bytes) :
    (inflateAt final mode r out).emit d = inflateAt final mode r (out ++ d) := by
  simp [Inflate.emit, inflateAt]

/-- Behind a block stands the trailer or the next header (43_inflate.md R191). -/
def modeAfter (final : Bool) : InflateMode := if final then .trailer else .header

section
variable (final : Bool) (lit dist : HuffCode) (r : BitReader) (out : Bytes)

theorem lengthSymbol_inflateAt {sym : Nat} (hsym : 257 ≤ sym) :
    (inflateAt final (.body lit dist) r out).lengthSymbol sym =
      readLength sym r >>= fun p => .ok (inflateAt final (.distance lit dist p.1) p.2 out) := by
  obtain ht | ⟨⟨base, ext⟩, ht⟩ := Option.eq_none_or_eq_some lengthTable[sym - 257]?
  · unfold readLength
    rw [Inflate.lengthSymbol, if_pos hsym, ht]
    rfl
  · rw [lengthSymbol_eq rfl hsym ht]
    unfold readLength
    rw [ht, bind_assoc]
    rfl

theorem distanceSymbol_inflateAt (len sym : Nat) :
    (inflateAt final (.distance lit dist len) r out).distanceSymbol sym =
      readDistance sym r >>= fun q =>
        if out.length < q.1 then .error .far
        else .ok (inflateAt final (.body lit dist) q.2 (copyBack q.1 len out)) := by
  obtain ht | ⟨⟨base, ext⟩, ht⟩ := Option.eq_none_or_eq_some distTable[sym]?
  · simp only [Inflate.distanceSymbol, readDistance, inflateAt, ht]
    rfl
  · rw [distanceSymbol_eq rfl ht, readDistance, ht]
    simp only [bind_assoc]
    refine bind_congr fun ⟨e, q⟩ => ?_
    change (if out.length < base + e then _ else _) = if out.length < base + e then _ else _
    split_ifs
    · rfl
    · change Except.ok ((inflateAt final (.body lit dist) q out).emit
        ((copyBack (base + e) len out).drop out.length)) = _
      rw [emit_inflateAt, append_drop_copyBack]

variable (s : State) (fpos : Nat)

theorem inflatesTo_readCopy (len : Nat) :
    s.InflatesTo fpos (inflateAt final (.distance lit dist len) r out)
      (readCopy dist len r out >>= fun c => .ok (inflateAt final (.body lit dist) c.1 c.2)) := by
  have hz : (inflateAt final (.distance lit dist len) r out).fetch = _ := Inflate.fetch_distance rfl
  have htau : s.inflateTau fpos (inflateAt final (.distance lit dist len) r out) = s.inflateFailed fpos := rfl
  rw [readCopy]
  cases hd : dist.decode r with
  | error e => exact inflatesTo_undecodable hz hd htau
  | ok p =>
    obtain ⟨ds, q⟩ := p
    rw [ok_bind]
    dsimp only
    split_ifs with h29
    · have hsym : (BitVec.ofNat 5 ds).toNat = ds := by rw [BitVec.toNat_ofNat]; omega
      have hstep := inflatesTo_symbol (s := s) (fpos := fpos) hz hd (if_pos h29) rfl
      rw [hsym] at hstep
      change s.InflatesTo fpos _ ((inflateAt final (.distance lit dist len) q out).distanceSymbol ds) at hstep
      rw [distanceSymbol_inflateAt] at hstep
      rw [bind_assoc]
      convert hstep using 3
      split_ifs <;> rfl
    · by_cases h31 : ds ≤ 31
      · exact inflatesTo_symbol hz hd ((if_neg h29).trans (if_pos h31)) rfl
      · exact inflatesTo_noSymbol hz hd ((if_neg h29).trans (if_neg h31)) htau _

/-- A symbol of a block's body, with its distance where it is a length, is one or two steps (43_inflate.md R206). -/
theorem inflatesTo_bodyRound :
    s.InflatesTo fpos (inflateAt final (.body lit dist) r out)
      (bodyRound lit dist r out >>= fun p =>
        .ok (inflateAt final (if p.1 then modeAfter final else .body lit dist) p.2.1 p.2.2)) := by
  have hz : (inflateAt final (.body lit dist) r out).fetch = _ := Inflate.fetch_body rfl
  have htau : s.inflateTau fpos (inflateAt final (.body lit dist) r out) = s.inflateFailed fpos := rfl
  rw [bodyRound]
  cases hd : lit.decode r with
  | error e => exact inflatesTo_undecodable hz hd htau
  | ok p =>
    obtain ⟨v, q⟩ := p
    rw [ok_bind]
    dsimp only
    split_ifs with h255 h256 h285
    · have hstep := inflatesTo_symbol (s := s) (fpos := fpos) hz hd (if_pos h255) rfl
      change s.InflatesTo fpos _
        (.ok ((inflateAt final (.body lit dist) q out).emit [BitVec.ofNat 8 v])) at hstep
      rw [emit_inflateAt] at hstep
      exact hstep
    · exact inflatesTo_symbol hz hd ((if_neg h255).trans (if_pos h256)) rfl
    · have hsym : (BitVec.ofNat 9 v).toNat = v := by rw [BitVec.toNat_ofNat]; omega
      have hstep := inflatesTo_symbol (s := s) (fpos := fpos) hz hd
        ((if_neg h255).trans ((if_neg h256).trans (if_pos h285))) rfl
      rw [hsym] at hstep
      change s.InflatesTo fpos _ ((inflateAt final (.body lit dist) q out).lengthSymbol v) at hstep
      rw [lengthSymbol_inflateAt _ _ _ _ _ (by omega)] at hstep
      rw [bind_assoc]
      refine hstep.bind fun ⟨len, q'⟩ _ => ?_
      rw [bind_assoc]
      exact inflatesTo_readCopy final lit dist q' out s fpos len
    · by_cases h287 : v ≤ 287
      · exact inflatesTo_symbol hz hd
          ((if_neg h255).trans ((if_neg h256).trans ((if_neg h285).trans (if_pos h287)))) rfl
      · exact inflatesTo_noSymbol hz hd
          ((if_neg h255).trans ((if_neg h256).trans ((if_neg h285).trans (if_neg h287)))) htau _

theorem inflatesTo_huffmanBlock {k : Nat} (hleft : r.Left k) :
    s.InflatesTo fpos (inflateAt final (.body lit dist) r out)
      (huffmanBlock lit dist k r out >>= fun p => .ok (inflateAt final (modeAfter final) p.1 p.2)) := by
  have hround := inflatesTo_bodyRound final lit dist
  induction k generalizing r out with
  | zero =>
    have h := hround r out s fpos
    rw [bodyRound, bind_of_error (decode_of_left_zero hleft)] at h
    exact h
  | succ k ih =>
    rw [huffmanBlock_succ, bind_assoc]
    refine (hround r out s fpos).bind fun ⟨done, q, out'⟩ h => ?_
    cases done with
    | true => exact State.InflatesTo.refl s fpos _
    | false => exact ih q out' (hleft.of_ahead (ahead_bodyRound h))

end

section
variable (final : Bool) (nlit ndist : Nat) (clt : HuffCode) (out : Bytes) (s : State) (fpos : Nat)

/-- The effect of a code-length symbol is what the symbol stands for, up to the announced number (43_inflate.md
R203). -/
theorem exists_effect_of_decodeClSym {sym : Nat} (hsym : sym ≤ 18) (lens : List Nat) (r : BitReader) :
    ∃ i f, decodeClSym sym = .ok i ∧ inflateEffect i = some f ∧
      f (inflateAt final (.lengths nlit ndist clt lens) r out) =
        readClSymbol sym lens r >>= fun q =>
          if nlit + ndist < (lens ++ q.1).length then .error .repeatOverflow
          else .ok (inflateAt final (.lengths nlit ndist clt (lens ++ q.1)) q.2 out) := by
  have hrepeat (base ext : Nat) :
      (inflateAt final (.lengths nlit ndist clt lens) r out).repeatZero base ext =
        (r.bits ext >>= fun p => .ok (List.replicate (base + p.1) 0, p.2)) >>= fun q =>
          if nlit + ndist < (lens ++ q.1).length then .error .repeatOverflow
          else .ok (inflateAt final (.lengths nlit ndist clt (lens ++ q.1)) q.2 out) := by
    rw [bind_assoc]
    rfl
  unfold decodeClSym readClSymbol
  by_cases h15 : sym ≤ 15
  · have hval : (BitVec.ofNat 4 sym).toNat = sym := by rw [BitVec.toNat_ofNat]; omega
    refine ⟨_, _, if_pos h15, rfl, ?_⟩
    rw [if_pos h15, hval]
    rfl
  · rw [if_neg h15, if_neg h15]
    obtain rfl | rfl | rfl : sym = 16 ∨ sym = 17 ∨ sym = 18 := by omega
    · refine ⟨_, _, rfl, rfl, ?_⟩
      rw [if_pos rfl]
      cases hlast : lens.getLast? with
      | none => rw [repeatLast_of_nil rfl (List.getLast?_eq_none_iff.1 hlast)]; rfl
      | some l =>
        rw [repeatLast_of_getLast? rfl hlast]
        simp only [bind_assoc]
        rfl
    · exact ⟨_, _, rfl, rfl, hrepeat 3 3⟩
    · exact ⟨_, _, rfl, rfl, hrepeat 11 7⟩

theorem inflatesTo_lengthsRound {lens : List Nat} (hl : lens.length < nlit + ndist) (r : BitReader) :
    s.InflatesTo fpos (inflateAt final (.lengths nlit ndist clt lens) r out)
      (lengthsRound clt (nlit + ndist) lens r >>= fun p =>
        .ok (inflateAt final (.lengths nlit ndist clt p.1) p.2 out)) := by
  have hz : (inflateAt final (.lengths nlit ndist clt lens) r out).fetch = _ := Inflate.fetch_lengths rfl hl
  have htau : s.inflateTau fpos (inflateAt final (.lengths nlit ndist clt lens) r out) = s.inflateFailed fpos :=
    if_pos hl
  rw [lengthsRound]
  cases hd : clt.decode r with
  | error e => exact inflatesTo_undecodable hz hd htau
  | ok p =>
    obtain ⟨sym, q⟩ := p
    rw [ok_bind]
    dsimp only
    by_cases h18 : sym ≤ 18
    · obtain ⟨i, f, hi, hf, heq⟩ := exists_effect_of_decodeClSym final nlit ndist clt out h18 lens q
      have hstep := inflatesTo_symbol (s := s) (fpos := fpos) hz hd hi hf
      change s.InflatesTo fpos _ (f (inflateAt final (.lengths nlit ndist clt lens) q out)) at hstep
      rw [heq] at hstep
      rw [bind_assoc]
      convert hstep using 3
      split_ifs <;> rfl
    · have hsym : readClSymbol sym lens q = .error .badCode := by
        rw [readClSymbol, if_neg (by omega), if_neg (by omega), if_neg (by omega), if_neg (by omega)]
      have hdec : decodeClSym sym = .error .noSuchSymbol := by
        rw [decodeClSym, if_neg (by omega), if_neg (by omega), if_neg (by omega), if_neg (by omega)]
      rw [bind_of_error hsym]
      exact inflatesTo_noSymbol hz hd hdec htau _

/-- The code lengths are read to the announced number, and the step behind them builds the codes (43_inflate.md
R203–R205). -/
theorem inflatesTo_readLengths {k : Nat} {lens : List Nat} (hl : lens.length ≤ nlit + ndist)
    (hk : nlit + ndist < lens.length + k) (r : BitReader) :
    s.InflatesTo fpos (inflateAt final (.lengths nlit ndist clt lens) r out)
      (readLengths clt (nlit + ndist) k lens r >>= fun p => blockCodes nlit ndist p.1 >>= fun t =>
        .ok (inflateAt final (.body t.1 t.2) p.2 out)) := by
  induction k generalizing lens r with
  | zero => omega
  | succ k ih =>
    rw [readLengths_succ]
    split_ifs with hmore
    · rw [bind_assoc]
      refine (inflatesTo_lengthsRound final nlit ndist clt out s fpos hmore r).bind fun ⟨lens', r'⟩ h => ?_
      obtain ⟨hgrow, hle, -⟩ := lengthsRound_eq_ok h
      exact ih hle (by omega) r'
    · have hstep := engineStep_tables
        (s := s.setEngine (.inflating fpos (inflateAt final (.lengths nlit ndist clt lens) r out))) rfl rfl
        (Nat.le_of_not_lt hmore)
      rw [Inflate.buildTables_eq] at hstep
      refine State.Reaches.of_step (hstep.trans ?_)
      rw [ok_bind]
      cases blockCodes nlit ndist lens <;> rfl

end

/-! ## Blocks -/

section
variable (final before : Bool) (s : State) (fpos : Nat) (r : BitReader) (out : Bytes)

theorem storedBlock_inflateAt :
    (inflateAt before .header r out).storedBlock final =
      storedBlock r out >>= fun p => .ok (inflateAt final (modeAfter final) p.1 p.2) := by
  rw [Inflate.storedBlock, storedBlock, bind_assoc]
  refine bind_congr fun ⟨h, r1⟩ => ?_
  dsimp only
  split_ifs
  · rfl
  · rw [bind_assoc]
    refine bind_congr fun ⟨d, r2⟩ => ?_
    change Except.ok ((inflateAt final .header r2 out).emit d).endBlock = _
    rw [emit_inflateAt]
    rfl

/-- The block type of the header bits (30_encoding.md R111). -/
theorem decodeDflBlock_ofNat {v : Nat} (hv : v < 8) :
    decodeDflBlock (BitVec.ofNat 3 v) =
      if v / 2 = 0 then .dflStored (decide (v % 2 = 1))
      else if v / 2 = 1 then .dflFixed (decide (v % 2 = 1))
      else if v / 2 = 2 then .dflDynamic (decide (v % 2 = 1))
      else .dflBtype3 (decide (v % 2 = 1)) := by
  revert v
  decide

/-- From the step of a dynamic header the codes of its block are built (43_inflate.md R200–R205). -/
theorem inflatesTo_dynamicTables {z : Inflate}
    (h : s.InflatesTo fpos z ((inflateAt before .header r out).dynamicBlock final)) :
    s.InflatesTo fpos z (dynamicTables r >>= fun t => .ok (inflateAt final (.body t.1 t.2.1) t.2.2 out)) := by
  rw [Inflate.dynamicBlock_eq] at h
  rw [dynamicTables_eq, bind_assoc]
  refine h.bind fun ⟨nlit, ndist, clt, r1⟩ _ => ?_
  have hlens := inflatesTo_readLengths final nlit ndist clt out s fpos (lens := []) (Nat.zero_le _)
    (k := nlit + ndist + 1) (by simp) r1
  simp only [bind_assoc, ok_bind]
  exact hlens

variable {r}

/-- A block's header is one step, and its body the steps of its type. -/
theorem inflatesTo_blockBody {z : Inflate} {n v : Nat} (hr : r.t < 8) (hn : 8 * r.src.length ≤ n) (hv : v < 8)
    (hz : z.fetch = some (decodeDflBlock (BitVec.ofNat 3 v), inflateAt before .header r out)) :
    s.InflatesTo fpos z (blockBody n (v / 2) r out >>= fun p =>
      .ok (inflateAt (decide (v % 2 = 1)) (modeAfter (decide (v % 2 = 1))) p.1 p.2)) := by
  rw [decodeDflBlock_ofNat hv] at hz
  generalize decide (v % 2 = 1) = final at hz ⊢
  have hleft {r' : BitReader} (h : Ahead 0 r r') : r'.Left n := by
    obtain ⟨hsrc, ht, -⟩ := h hr
    exact ⟨ht, by rw [hsrc]; omega⟩
  unfold blockBody
  split_ifs at hz ⊢
  · rw [← storedBlock_inflateAt final before]
    exact inflatesTo_fetch hz rfl
  · have hstep := inflatesTo_fetch (s := s) (fpos := fpos) hz rfl
    exact State.InflatesTo.trans hstep
      (inflatesTo_huffmanBlock final fixedLit fixedDist r out s fpos (hleft (Ahead.refl r)))
  · rw [bind_assoc]
    refine (inflatesTo_dynamicTables final before s fpos r out (inflatesTo_fetch hz rfl)).bind
      fun ⟨lit, dist, r1⟩ h => ?_
    exact inflatesTo_huffmanBlock final lit dist r1 out s fpos (hleft (ahead_dynamicTables h))
  · exact inflatesTo_fetch hz rfl

theorem inflatesTo_blockRound {n : Nat} (hr : r.t < 8) (hn : 8 * r.src.length ≤ n) :
    s.InflatesTo fpos (inflateAt before .header r out)
      (blockRound n r out >>= fun p => .ok (inflateAt p.1 (modeAfter p.1) p.2.1 p.2.2)) := by
  cases h : r.bits 3 with
  | error e =>
    have hf : (inflateAt before .header r out).fetch = none := by simp [Inflate.fetch, inflateAt, h]
    have hfail (e : InflateFail) : s.InflatesTo fpos (inflateAt before .header r out) (.error e) :=
      inflatesTo_fails hf rfl e
    rw [blockRound]
    obtain h1 | ⟨v, q, h1, h2⟩ := bits_add_eq_error (m := 1) (n := 2) h
    · rw [bind_of_error h1]
      exact hfail _
    · rw [bind_of_ok h1, bind_of_error h2]
      exact hfail _
  | ok p =>
    obtain ⟨v, q⟩ := p
    have hz : (inflateAt before .header r out).fetch =
        some (decodeDflBlock (BitVec.ofNat 3 v), inflateAt before .header q out) :=
      Inflate.fetch_header rfl h (decode_dflBlock v)
    obtain ⟨hsrc, hq, -⟩ := ahead_bits h hr
    have hbody := inflatesTo_blockBody before s fpos out (n := n) hq (by rwa [hsrc]) (bits_lt h) hz
    obtain ⟨q', h1, h2⟩ := bits_add_eq_ok (m := 1) (n := 2) h
    rw [blockRound, bind_of_ok h1, bind_of_ok h2, bind_assoc]
    exact hbody

theorem inflatesTo_inflateBlocks {n k : Nat} (hleft : r.Left k) (hn : 8 * r.src.length ≤ n) :
    s.InflatesTo fpos (inflateAt before .header r out)
      (inflateBlocks n k r out >>= fun p => .ok (inflateAt true .trailer p.1 p.2)) := by
  induction k generalizing before r out with
  | zero =>
    have h := inflatesTo_blockRound before s fpos out hleft.1 hn
    rw [blockRound, bind_of_error (bits_of_left_zero hleft 0)] at h
    exact h
  | succ k ih =>
    rw [inflateBlocks_succ, bind_assoc]
    refine (inflatesTo_blockRound before s fpos out hleft.1 hn).bind fun ⟨final, q, out'⟩ h => ?_
    have hahead := ahead_blockRound h
    cases final with
    | true => exact State.InflatesTo.refl s fpos _
    | false =>
      obtain ⟨hsrc, -, -⟩ := hahead hleft.1
      exact ih false out' (hleft.of_ahead hahead) (by rwa [hsrc])

end

/-! ## The payload -/

/-- `inflate` is its blocks and then the trailer (43_inflate.md R191). -/
theorem inflate_eq (p : Bytes) :
    inflate p = inflateBlocks (8 * p.length + 1) (8 * p.length + 1) (BitReader.begin p) [] >>= fun a =>
      (inflateAt true .trailer a.1 a.2).checkTrailer := rfl

/-- Settles O32: the blocks are run round by round, none of which stands still, and the trailer decides. -/
theorem inflateStepsReachTheResult : Obligations.InflateStepsReachTheResult := by
  intro s fpos p he
  have hgoal : s.Reaches (s.afterPayload fpos (inflate p)) := by
    have hleft : (BitReader.begin p).Left (8 * p.length + 1) :=
      ⟨Nat.zero_lt_succ 7, by simp only [BitReader.begin]; omega⟩
    have hblocks := inflatesTo_inflateBlocks false s fpos [] hleft (n := 8 * p.length + 1)
      (by simp only [BitReader.begin]; omega)
    change (s.setEngine (.inflating fpos (Inflate.begin p))).Reaches _ at hblocks
    rw [State.setEngine_self he] at hblocks
    rw [inflate_eq]
    cases hrun : inflateBlocks (8 * p.length + 1) (8 * p.length + 1) (BitReader.begin p) [] with
    | error e =>
      rw [hrun] at hblocks
      exact hblocks
    | ok a =>
      rw [hrun, ok_bind] at hblocks
      refine hblocks.trans (State.Reaches.of_step ?_)
      rw [engineStep_trailer (s := State.afterInflate fpos s (.ok (inflateAt true .trailer a.1 a.2))) rfl rfl,
        ok_bind]
      cases (inflateAt true .trailer a.1 a.2).checkTrailer <;> rfl
  obtain ⟨k, hk⟩ := hgoal
  refine ⟨k, hk.trans ?_⟩
  cases inflate p <;> rfl

end Sys2Proof.Machine
end

section
/-!
PROOFS. The framer (44_framer.md): the length it fetches (O15), the payload a frame takes (O16) and the end of the stream
(O17); then block bytes too short for a header, with which it goes on at once (O35).
-/

namespace Sys2Proof.Machine

/-! ## Bytes of the stream -/

theorem getElem?_inBytes (s : State) (a : Nat) {n i : Nat} (hi : i < n) :
    (s.inBytes a n)[i]? = some (s.inByte (a + i)) := by
  simp [State.inBytes, hi]

theorem byteAt_inBytes (s : State) (a : Nat) {n i : Nat} (hi : i < n) :
    byteAt (s.inBytes a n) i = s.inByte (a + i) := by
  rw [byteAt, List.getD_eq_getElem?_getD, getElem?_inBytes s a hi, Option.getD_some]

/-- A length is there to be read exactly where 4 bytes stand between the cursor and IN_LEN (44_framer.md R241). -/
theorem four_le_streamLeft {s : State} {fpos : Nat} : 4 ≤ s.streamLeft fpos ↔ fpos + 4 ≤ s.regs.inLen.toNat := by
  rw [State.streamLeft]
  omega

/-! ## The steps of the framer -/

theorem fetch_frame {s : State} {fpos : Nat} (he : s.engine = .framing fpos) (hleft : 4 ≤ s.streamLeft fpos) :
    s.fetch = some (.frame (u32le (s.inBytes fpos 4) 0), s) := by
  simp only [State.fetch, he, if_neg (Nat.not_lt.2 hleft)]

theorem engineStep_endOfStream {s : State} {fpos : Nat} (he : s.engine = .framing fpos) (hleft : s.streamLeft fpos < 4) :
    engineStep s = .next (s.endOfStream fpos) := by
  simp only [engineStep, State.fetch, State.tau, he, if_pos hleft]

theorem engineStep_dispatching {s : State} {fpos : Nat} {d : Bytes} (he : s.engine = .dispatching fpos d) :
    engineStep s = s.dispatch fpos d := by
  simp only [engineStep, State.fetch, State.tau, he]

/-! ## The frames of the stream -/

/-- Settles O15: the fetched length is the `u32le` of the four bytes at the cursor. -/
theorem lengthPrefixIsLittleEndian : Obligations.LengthPrefixIsLittleEndian := by
  intro s fpos he hleft
  refine ⟨_, fetch_frame he (four_le_streamLeft.2 hleft), ?_⟩
  rw [u32le_toNat, byteAt_inBytes s fpos (by decide), byteAt_inBytes s fpos (by decide),
    byteAt_inBytes s fpos (by decide), byteAt_inBytes s fpos (by decide), Nat.add_zero]

/-- TRUNC is raised exactly where L exceeds what remains behind its four bytes (44_framer.md R243). -/
theorem raiseIf_trunc_status (s : State) (fpos : Nat) (l : Word) :
    (s.raiseIf (decide (s.streamLeft (fpos + 4) < l.toNat)) .trunc).status =
      if s.regs.inLen.toNat - (fpos + 4) < l.toNat then s.status ||| 0x8 else s.status := by
  simp only [State.raiseIf_status, decide_eq_true_eq]
  rfl

/-- Settles O16: the one thing FRAME can answer, and its frame; TRUNC is raised where `min(L, rem)` is not L. -/
theorem frameTakesTheBytesThatRemain : Obligations.FrameTakesTheBytesThatRemain := by
  intro l s fpos he hleft hcap
  have hexec := (execFrame_eq_next (len := l)).2 ⟨fpos, he, four_le_streamLeft.2 hleft, hcap, rfl⟩
  obtain ⟨⟨hregs, -, hmem, hhost⟩, -⟩ := execFrame_frame hexec
  have hlen := inBytes_length s (fpos + 4) (s.frameLength l fpos)
  have hmin : s.frameLength l fpos = min l.toNat (s.regs.inLen.toNat - (fpos + 4)) := rfl
  have hstatus := raiseIf_trunc_status s fpos l
  refine ⟨_, s.inBytes (fpos + 4) (s.frameLength l fpos), hexec, ?_, hlen.trans hmin, fun i hi => ?_,
    fun hcut => ⟨?_, ?_⟩, fun hfits => ?_, ?_, hregs, hmem, hhost⟩
  · rw [hlen, State.setEngine_engine]
  · exact getElem?_inBytes s _ (hlen ▸ hi)
  · exact hstatus.trans (if_pos hcut)
  · omega
  · exact hstatus.trans (if_neg (Nat.not_lt.2 hfits))
  · rw [State.setEngine_cnt, State.count_cnt, State.raiseIf_cnt, Counters.incBlocks]

/-! ## The end of the stream -/

theorem State.endOfStream_of_decodeRender {s : State} (fpos : Nat) (hop : s.regs.op = 3) :
    s.endOfStream fpos = (s.raiseIf (decide (0 < s.streamLeft fpos)) .tail).beginRender := if_pos hop

theorem State.endOfStream_of_decode {s : State} (fpos : Nat) (hop : s.regs.op ≠ 3) :
    s.endOfStream fpos = (s.raiseIf (decide (0 < s.streamLeft fpos)) .tail).complete := if_neg hop

/-- Bytes are left exactly where the cursor stands before IN_LEN. -/
theorem raiseIf_tail_status (s : State) (fpos : Nat) :
    (s.raiseIf (decide (0 < s.streamLeft fpos)) .tail).status =
      if fpos < s.regs.inLen.toNat then s.status ||| 0x10 else s.status := by
  simp only [State.raiseIf_status, State.streamLeft, Nat.sub_pos_iff_lt, decide_eq_true_eq]
  rfl

theorem State.sameBut_complete (s : State) : s.sameBut [.status] [0, 1] s.complete :=
  ⟨complete_sameRegisters s, complete_sameStatusBut s, sameMemory_of_eq rfl rfl rfl, rfl, rfl, rfl⟩

/-- The end of the stream changes STATUS alone: TAIL, and at a completion BUSY and DONE. -/
theorem State.sameBut_endOfStream (fpos : Nat) (s : State) : s.sameBut [.status] [4, 0, 1] (s.endOfStream fpos) := by
  have htail := s.sameBut_raiseIf (decide (0 < s.streamLeft fpos)) .tail
  by_cases hop : s.regs.op = 3
  · rw [State.endOfStream_of_decodeRender fpos hop]
    exact (htail.trans (State.sameBut_setEngine _ _)).mono (by simp) (by simp [Event.code])
  · rw [State.endOfStream_of_decode fpos hop]
    exact (htail.trans (State.sameBut_complete _)).mono (by simp) (by simp [Event.code])

/-- Settles O17: the step is the end of the stream, which raises TAIL and then goes by the operation. -/
theorem streamEndRaisesTail : Obligations.StreamEndRaisesTail := by
  intro s fpos he hleft st
  obtain ⟨hregs, -, hmem, hhost⟩ := s.sameBut_endOfStream fpos
  have hend : s.streamLeft fpos < 4 := Nat.not_le.1 (four_le_streamLeft.not.2 (Nat.not_le.2 hleft))
  have hst : (s.raiseIf (decide (0 < s.streamLeft fpos)) .tail).status = st := raiseIf_tail_status s fpos
  refine ⟨_, engineStep_endOfStream he hend, fun hop => ?_, fun hop => ?_, hregs, hmem, hhost⟩
  · rw [State.endOfStream_of_decodeRender fpos hop]
    exact ⟨rfl, hst⟩
  · rw [State.endOfStream_of_decode fpos hop, State.complete_status, hst]
    exact ⟨rfl, rfl⟩

/-! ## Block bytes without a header -/

/-- Settles O35: the assembler's step skips block bytes shorter than a header. -/
theorem shortBlockBytesAreSkipped : Obligations.ShortBlockBytesAreSkipped := by
  intro s fpos d he hlen
  rw [engineStep_dispatching he, State.dispatch, if_pos hlen]
  rfl

end Sys2Proof.Machine
end

section
/-!
PROOFS. The assembler (45_assembler.md R261–R270): the clamp events, the bytes a block stores in its plane's rows, and what
assembly leaves unchanged (O34).
-/

namespace Sys2Proof.Machine

/-! ## The header -/

/-- The plane of a block (45_assembler.md R262, R264); the parity fallback has no run (R263). -/
theorem choosePlane_fst (d : Bytes) (s : State) : (s.choosePlane d).1 = if s.b = 2 then flagPlaneOf d else 0 := by
  have hflag : flagPlaneOf d < 2 := ((byteAt d 5).extractLsb' 0 1).isLt
  unfold State.choosePlane
  rw [if_pos hflag]
  split <;> rfl

section
variable (r0 r1 c0 c1 format flags : Byte) (data : Bytes)

theorem startRowOf_header :
    startRowOf (r0 :: r1 :: c0 :: c1 :: format :: flags :: data) = r0.toNat + 256 * r1.toNat := u16le_toNat _ 0

theorem rowCountOf_header :
    rowCountOf (r0 :: r1 :: c0 :: c1 :: format :: flags :: data) = c0.toNat + 256 * c1.toNat := u16le_toNat _ 2

theorem choosePlane_header (s : State) :
    (s.choosePlane (r0 :: r1 :: c0 :: c1 :: format :: flags :: data)).1 = if s.b = 2 then flags.toNat % 2 else 0 := by
  have hflag : flagPlaneOf (r0 :: r1 :: c0 :: c1 :: format :: flags :: data) = flags.toNat % 2 := by
    rw [flagPlaneOf_header, BitVec.getLsbD, Nat.toNat_testBit, pow_zero, Nat.div_one]
  rw [choosePlane_fst, hflag]

end

section
variable {s u : State} {d : Bytes}

/-! ## The clamp events -/

theorem State.sameBut_clampEvents (d : Bytes) (s : State) : s.sameBut [.status] [6, 7] (s.clampEvents d) :=
  ((s.sameBut_raiseIf _ .hclamp).trans (State.sameBut_raiseIf _ _ .dclamp)).mono (by simp) (by simp [Event.code])

/-- HCLAMP is raised exactly where the declared rows end below the work grid (45_assembler.md R266). -/
theorem clampEvents_hclamp (d : Bytes) (s : State) :
    (s.clampEvents d).status.getLsbD 6 = (s.status.getLsbD 6 || decide (s.he < startRowOf d + rowCountOf d)) := by
  obtain ⟨-, hbits, -⟩ := State.sameBut_raiseIf (s.raiseIf (decide (s.he < startRowOf d + rowCountOf d)) .hclamp)
    (decide (availBytes d < s.wantBytes d)) .dclamp
  exact (hbits 6 (by simp [Event.code])).trans (raiseIf_status_bit _ .hclamp s)

/-- DCLAMP is raised exactly where there are fewer row bytes than the clamped rows hold (45_assembler.md R266, R267). -/
theorem clampEvents_dclamp (d : Bytes) (s : State) :
    (s.clampEvents d).status.getLsbD 7 = (s.status.getLsbD 7 || decide (availBytes d < s.wantBytes d)) := by
  obtain ⟨-, hbits, -⟩ := s.sameBut_raiseIf (decide (s.he < startRowOf d + rowCountOf d)) .hclamp
  rw [← hbits 7 (by simp [Event.code])]
  exact raiseIf_status_bit _ .dclamp _

/-- The events leave NEXT_PLANE as it is, so assembly, which stores it again, leaves it too. -/
theorem setNextPlane_clampEvents (d : Bytes) (s : State) :
    (s.clampEvents d).setNextPlane s.nextPlane = s.clampEvents d := by
  have hnext : (s.clampEvents d).nextPlane = s.nextPlane := by simp [State.clampEvents]
  rw [← hnext]
  rfl

/-! ## The bytes stored -/

/-- A block has all the row bytes that are stored (45_assembler.md R267). -/
theorem rowBytes_length (d : Bytes) (s : State) : (slice d 6 (6 + s.writeLength d)).length = s.writeLength d := by
  rw [slice_length]
  exact Nat.min_eq_left (Nat.min_le_right ..)

/-- What a block writes ends inside its plane (45_assembler.md R268). -/
theorem write_inside_plane (d : Bytes) (s : State) :
    s.writeBase d + s.writeLength d ≤ ((s.choosePlane d).1 + 1) * s.psize := by
  rw [State.writeBase, Nat.succ_mul, Nat.add_assoc]
  exact Nat.add_le_add_left (rows_inside d s) _

/-- The row bytes are stored in their order, from the first behind the header on (45_assembler.md R266–R268). -/
theorem assemble_pbByte_inside (h : s.assemble d = .next u) {i : Nat} (hi : i < s.writeLength d) :
    some (u.pbByte (s.writeBase d + i)) = d[6 + i]? := by
  obtain ⟨hn, -⟩ | ⟨-, -, rfl⟩ := assemble_cases h
  · omega
  · have hi' : i < (slice d 6 (6 + s.writeLength d)).length := by rwa [rowBytes_length]
    rw [← getElem?_slice hi, List.getElem?_eq_getElem hi']
    exact congrArg some (Memory.read_write_inside hi')

theorem assemble_pbByte_outside (h : s.assemble d = .next u) {a : Nat}
    (ha : a < s.writeBase d ∨ s.writeBase d + s.writeLength d ≤ a) : u.pbByte a = s.pbByte a := by
  obtain ⟨-, -, ⟨-, hclamp, -⟩, -⟩ := s.sameBut_clampEvents d
  obtain ⟨-, rfl⟩ | ⟨-, -, rfl⟩ := assemble_cases h
  · exact hclamp a
  · refine (Memory.read_write_outside ?_).trans (hclamp a)
    rwa [rowBytes_length]

/-! ## What else changes -/

theorem countsIn_incApplied : CountsIn .cntBlk Counters.incApplied :=
  fun _ r hr => by cases r with | cntBlk => exact absurd rfl hr | _ => rfl

/-- A block is counted as applied exactly where it writes a byte (45_assembler.md R266, R269). -/
theorem assemble_cnt (h : s.assemble d = .next u) :
    u.cnt = if s.writeLength d = 0 then s.cnt else s.cnt.incApplied := by
  obtain ⟨hn, rfl⟩ | ⟨hn, -, rfl⟩ := assemble_cases h <;> simp [hn, State.clampEvents]

theorem assemble_status (h : s.assemble d = .next u) : u.status = (s.clampEvents d).status := by
  obtain ⟨-, rfl⟩ | ⟨-, -, rfl⟩ := assemble_cases h <;> rfl

theorem assemble_sameRegisters (h : s.assemble d = .next u) : s.sameRegistersBut [.status, .cntBlk] u := by
  obtain ⟨hclamp, -⟩ := s.sameBut_clampEvents d
  obtain ⟨-, rfl⟩ | ⟨-, -, rfl⟩ := assemble_cases h <;> rw [setNextPlane_clampEvents]
  · exact hclamp.mono (by simp)
  · obtain ⟨hcount, -⟩ := ((s.clampEvents d).setPbBytes (s.writeBase d) (slice d 6 (6 + s.writeLength d))).sameBut_count
      countsIn_incApplied
    exact (hclamp.trans ((setPbBytes_sameRegisters _ _ _).trans hcount)).mono (by simp)

/-- Assembly leaves IN and the host's side as they are. -/
theorem assemble_inMem_hostSide (h : s.assemble d = .next u) : u.inMem = s.inMem ∧ s.sameHostSide u := by
  obtain ⟨-, -, -, hin, hinputs, hresponses, hfree⟩ := by
    simpa only [State.readOnly, Prod.mk.injEq] using assemble_readOnly h
  exact ⟨hin, hinputs, hresponses, hfree⟩

/-! ## The step -/

/-- Where the planes are inside PB, the step on block bytes with a header assembles them and hands over to the framer. -/
theorem engineStep_assembles {fpos : Nat} (he : s.engine = .dispatching fpos d) (hlen : 6 ≤ d.length)
    (hfit : s.np * s.psize ≤ s.caps.pbCap) :
    ∃ u, s.assemble d = .next u ∧ engineStep s = .next (u.setEngine (.framing fpos)) := by
  obtain ⟨u, hu, -⟩ := assemble_of_planes_fit hfit d
  refine ⟨u, hu, ?_⟩
  rw [engineStep_dispatching he, State.dispatch, if_neg (Nat.not_lt.2 hlen), hu, andThen_of_next]

end

/-- Settles O34: the step is assembly, whose range and events are those of the header's fields. -/
theorem assembleWritesTheClampedRows : Obligations.AssembleWritesTheClampedRows := by
  intro s fpos r0 r1 c0 c1 format flags data he hfit startRow rowCount sRow eRow want n plane base
  let d := r0 :: r1 :: c0 :: c1 :: format :: flags :: data
  have hstart : startRowOf d = startRow := startRowOf_header ..
  have hcount : rowCountOf d = rowCount := rowCountOf_header ..
  have hplane : (s.choosePlane d).1 = plane := choosePlane_header ..
  have hwant : s.wantBytes d = want := by rw [State.wantBytes, State.endRow, State.firstRow, hstart, hcount]
  have hn : s.writeLength d = n := by rw [State.writeLength, hwant]; rfl
  have hbase : s.writeBase d = base := by rw [State.writeBase, hplane, State.firstRow, hstart]
  obtain ⟨u, hu, hstep⟩ := engineStep_assembles he (Nat.le_add_left 6 _) hfit
  obtain ⟨hin, hhost⟩ := assemble_inMem_hostSide hu
  have hstatus := assemble_status hu
  obtain ⟨hregs, -⟩ := u.sameBut_setEngine (.framing fpos)
  refine ⟨_, hstep, rfl, fun i hi => ?_, fun a ha => ?_, ?_, fun a => ?_, fun a => ?_, ?_, ?_, ?_, ?_, ?_, hhost⟩
  · rw [← hbase]
    exact (assemble_pbByte_inside hu (hn ▸ hi)).trans (by rw [Nat.add_comm]; rfl)
  · rw [← hbase, ← hn] at ha
    exact assemble_pbByte_outside hu ha
  · rw [← hbase, ← hn, ← hplane]
    exact write_inside_plane d s
  · exact congrArg (Memory.read Config.unlistedByte · a) hin
  · exact State.imgWord_congr (assemble_writes hu).2 a
  · rw [State.setEngine_cnt, assemble_cnt hu, hn]
    rfl
  · rw [State.setEngine_status, hstatus, clampEvents_hclamp, hstart, hcount]
  · rw [State.setEngine_status, hstatus, clampEvents_dclamp, hwant]
    rfl
  · obtain ⟨-, hbits, -⟩ := s.sameBut_clampEvents d
    exact fun k hk => (congrArg (BitVec.getLsbD · k) hstatus).trans (hbits k hk)
  · exact (assemble_sameRegisters hu).trans hregs

end Sys2Proof.Machine
end

section
/-!
PROOFS. The pixel unpacker (46_unpack_render.md R290–R298): which bytes a pixel reads (O41), and the colour PLANE.READ (O37)
and INDEX.EXTRACT (O38) draw at its place.
-/

namespace Sys2Proof.Machine

section
variable {s : State} {x y : Nat}

/-! ## The bytes a pixel reads -/

/-- A byte of a row of the grid is inside its plane (10_state.md R40). -/
theorem rowByte_lt_psize {k : Nat} (hy : y < s.he) (hk : k < s.bpr) : y * s.bpr + k < s.psize :=
  calc y * s.bpr + k < (y + 1) * s.bpr := by rw [Nat.succ_mul]; omega
    _ ≤ s.he * s.bpr := Nat.mul_le_mul_right _ hy
    _ = s.psize := Nat.mul_comm ..

theorem planeColumn_lt_bpr (hb : s.b ≤ 2) (hx : x < s.we) : x / 8 < s.bpr := by
  rw [State.bpr, if_pos hb, ceilDivNat]
  omega

/-- A pixel's last bit is inside its row: b bits for each of its pixels have room there (10_state.md R38). -/
theorem indexColumn_lt_bpr (hb : 2 < s.b) (hx : x < s.we) :
    x * s.b / 8 + (if x * s.b % 8 + s.b ≤ 8 then 0 else 1) < s.bpr := by
  have hbits : x * s.b + s.b ≤ s.we * s.b := by
    rw [← Nat.succ_mul]
    exact Nat.mul_le_mul_right _ hx
  rw [State.bpr, if_neg (Nat.not_le.2 hb), ceilDivNat]
  split <;> omega

theorem planeIndex_lt_psize (hb : s.b ≤ 2) (hx : x < s.we) (hy : y < s.he) : s.planeIndex x y < s.psize :=
  rowByte_lt_psize hy (planeColumn_lt_bpr hb hx)

theorem lastIndexByte_lt_psize (hb : 2 < s.b) (hx : x < s.we) (hy : y < s.he) : s.lastIndexByte s.b x y < s.psize := by
  rw [State.lastIndexByte, Nat.add_assoc]
  exact rowByte_lt_psize hy (indexColumn_lt_bpr hb hx)

/-- Where the last plane starts, the highest one a pixel reads from (10_state.md R39; 46_unpack_render.md R292). -/
theorem lastPlane_start (s : State) : (s.np - 1) * s.psize = if s.b = 2 then s.psize else 0 := by
  rw [State.np]
  split <;> simp

theorem lastPlaneByte_lt (hb : s.b ≤ 2) (hx : x < s.we) (hy : y < s.he) :
    (if s.b = 2 then s.psize else 0) + s.planeIndex x y < s.np * s.psize := by
  have h := planeIndex_lt_psize hb hx hy
  rw [State.np]
  split <;> omega

end

/-- Settles O41: a pixel's bytes are inside its row, and its row is inside its plane. -/
theorem pixelReadsStayInTheBuffer : Obligations.PixelReadsStayInTheBuffer := by
  intro s x y hx hy
  refine ⟨fun _ hb => ?_, fun hb => ⟨lastIndexByte_lt_psize hb hx hy, ?_⟩⟩
  · rw [lastPlane_start]
    exact lastPlaneByte_lt hb hx hy
  · have := indexColumn_lt_bpr hb hx
    rw [State.lastIndexByte, Nat.succ_mul]
    omega

/-! ## The place of a pixel -/

/-- The work grid with a pixel drawn (46_unpack_render.md R290). -/
def State.gridWith (x y : Nat) (work : Memory 24) (c : Rgb) (s : State) : Memory 24 :=
  Memory.write Config.white work (s.workIndex x y) [c]

section
variable (s : State) (x y : Nat) (work : Memory 24) (c : Rgb)

theorem read_gridWith (k : Nat) :
    Memory.read Config.white (s.gridWith x y work c) k = if k = y * s.we + x then c else Memory.read Config.white work k :=
  Memory.read_write_one

theorem drawPixel_eq : s.drawPixel x y work c = s.setEngine
    (if x + 1 < s.we then .drawing (x + 1) y (s.gridWith x y work c) else .drawing 0 (y + 1) (s.gridWith x y work c)) :=
  (apply_ite s.setEngine ..).symm

/-- Drawing a pixel, with or without an event, leaves memory, the host's side and every register but STATUS alone. -/
theorem drawPixel_raiseIf_frame (miss : Bool) (e : Event) :
    let t := (s.raiseIf miss e).drawPixel x y work c
    s.sameRegistersBut [.status] t ∧ s.sameMemory t ∧ s.sameHostSide t := by
  obtain ⟨hregs, -, hmem, hhost⟩ := (s.sameBut_raiseIf miss e).trans (State.sameBut_setEngine _ _)
  rw [drawPixel_eq]
  exact ⟨hregs, hmem, hhost⟩

theorem drawPixel_raiseIf_engine (miss : Bool) (e : Event) :
    ((s.raiseIf miss e).drawPixel x y work c).engine = if x + 1 < s.we then .drawing (x + 1) y (s.gridWith x y work c)
      else .drawing 0 (y + 1) (s.gridWith x y work c) := by
  rw [drawPixel_eq]
  cases miss <;> rfl

theorem drawPixel_raiseIf_status (miss : Bool) (e : Event) : ((s.raiseIf miss e).drawPixel x y work c).status =
    if miss then s.status ||| (1#32 <<< e.code) else s.status := by
  rw [drawPixel_eq, State.setEngine_status, State.raiseIf_status]

end

theorem onPixel_of_drawing {s : State} {x y : Nat} {work : Memory 24} (he : s.engine = .drawing x y work)
    (hx : x < s.we) (hy : y < s.he) (f : Nat → Nat → Memory 24 → Result) : s.onPixel f = f x y work := by
  rw [State.onPixel, he]
  exact if_pos ⟨hx, hy⟩

/-! ## Keys -/

/-- The TAG a key is looked up by (46_unpack_render.md R294). -/
def ColourKey.tag : ColourKey → BitVec 2
  | .black => tagBlack
  | .white => tagWhite
  | .colour => tagOther

/-- The colour of a TAG's first entry, white where it has none (46_unpack_render.md R294, R295). -/
def State.tagColour (g : BitVec 2) (s : State) : Rgb := (s.findTag g).elim Config.white s.ctRgb

/-- The colour of a key that has no entry: a colour pixel falls back to the white entry (46_unpack_render.md R295). -/
def State.keyDefault (s : State) : ColourKey → Rgb
  | .black => Config.white
  | .white => Config.white
  | .colour => s.tagColour tagWhite

/-- The colour of a key: that of its TAG's first entry, or its default (46_unpack_render.md R294, R295). -/
def State.keyColour (k : ColourKey) (s : State) : Rgb := (s.findTag k.tag).elim (s.keyDefault k) s.ctRgb

/-- Whether a key has no entry of its own, which is what KEYMISS reports (46_unpack_render.md R295). -/
def State.keyMisses (k : ColourKey) (s : State) : Bool := (s.findTag k.tag).isNone

section
variable {s : State} {g : BitVec 2}

theorem findTag_of_first {i : Nat} (h : i < s.n ∧ s.ctTag i = g ∧ ∀ j, j < i → s.ctTag j ≠ g) :
    s.findTag g = some i := by
  obtain ⟨hi, htag, hfirst⟩ := h
  rw [State.findTag, List.find?_range_eq_some]
  simpa using ⟨htag, hi, hfirst⟩

theorem findTag_of_absent (h : ∀ i, i < s.n → s.ctTag i ≠ g) : s.findTag g = none := by
  simpa [State.findTag] using h

theorem tagColour_of_first {i : Nat} (h : i < s.n ∧ s.ctTag i = g ∧ ∀ j, j < i → s.ctTag j ≠ g) :
    s.tagColour g = s.ctRgb i := by rw [State.tagColour, findTag_of_first h, Option.elim_some]

theorem tagColour_of_absent (h : ∀ i, i < s.n → s.ctTag i ≠ g) : s.tagColour g = Config.white := by
  rw [State.tagColour, findTag_of_absent h, Option.elim_none]

theorem lookupTag_eq (g : BitVec 2) (s : State) :
    s.lookupTag g = (s.tagColour g, s.raiseIf (s.findTag g).isNone .keymiss) := by
  rw [State.lookupTag, State.tagColour]
  cases s.findTag g <;> rfl

theorem lookupKey_eq (k : ColourKey) (s : State) :
    s.lookupKey k = (s.keyColour k, s.raiseIf (s.keyMisses k) .keymiss) := by
  cases k with
  | black => exact lookupTag_eq tagBlack s
  | white => exact lookupTag_eq tagWhite s
  | colour =>
    unfold State.lookupKey State.keyColour State.keyMisses ColourKey.tag
    cases s.findTag tagOther with
    | some i => rfl
    | none =>
      have hraise : (s.raise .keymiss).raiseIf (s.findTag tagWhite).isNone .keymiss = s.raise .keymiss := by
        cases (s.findTag tagWhite).isNone
        · rfl
        · exact raise_raise .keymiss s
      exact (lookupTag_eq tagWhite (s.raise .keymiss)).trans (Prod.ext rfl hraise)

/-- The first entry of a key's TAG gives its colour; a key without one takes its default and is missed. -/
theorem keyColour_spec (k : ColourKey) (s : State) :
    (∀ i, (i < s.n ∧ s.ctTag i = k.tag ∧ ∀ j, j < i → s.ctTag j ≠ k.tag) →
      s.keyColour k = s.ctRgb i ∧ s.keyMisses k = false) ∧
    ((∀ i, i < s.n → s.ctTag i ≠ k.tag) → s.keyColour k = s.keyDefault k ∧ s.keyMisses k = true) :=
  ⟨fun i hi => by simp [State.keyColour, State.keyMisses, findTag_of_first hi],
    fun hno => by simp [State.keyColour, State.keyMisses, findTag_of_absent hno]⟩

end

/-- The mask of a pixel is its bit, the leftmost pixel's the highest (46_unpack_render.md R292). -/
theorem planeBit_eq (start x y : Nat) (s : State) :
    s.planeBit start x y = (s.pbByte (start + s.planeIndex x y)).getLsbD (7 - x % 8) := by
  have hmask : ∀ r < 8, 0x80#8 >>> r = BitVec.twoPow 8 (7 - r) ∧ BitVec.twoPow 8 (7 - r) ≠ 0 := by decide
  obtain ⟨hm, hne⟩ := hmask (x % 8) (Nat.mod_lt _ (by decide))
  rw [State.planeBit, pixelMask, hm, BitVec.and_twoPow]
  cases (s.pbByte (start + s.planeIndex x y)).getLsbD (7 - x % 8) with
  | false => simp
  | true => simpa using hne

/-! ## Indices -/

/-- Bit k of row y of the packed pixels, the highest bit of a byte first (30_encoding.md R115). -/
def State.rowBit (y k : Nat) (s : State) : Bool := (s.pbByte (y * s.bpr + k / 8)).getLsbD (7 - k % 8)

/-- The bits of a pixel's index, in one byte or across two (46_unpack_render.md R297). -/
theorem testBit_pixelIndex {b : Nat} (hb : b ≤ 8) (x y m : Nat) (s : State) :
    (s.pixelIndex b x y).testBit m = (decide (m < b) && s.rowBit y (x * b + (b - 1 - m))) := by
  unfold State.pixelIndex State.rowBit BitVec.getLsbD
  dsimp only
  have hhigh (a : Nat) {i : Nat} (hi : 8 ≤ i) : (s.pbByte a).toNat.testBit i = false :=
    BitVec.getLsbD_of_ge _ _ hi
  generalize x * b = k
  by_cases hone : k % 8 + b ≤ 8
  · rw [if_pos hone, Nat.testBit_and, Nat.testBit_shiftRight, Nat.testBit_two_pow_sub_one, Bool.and_comm]
    by_cases hm : m < b
    · rw [show (k + (b - 1 - m)) / 8 = k / 8 by omega, show 7 - (k + (b - 1 - m)) % 8 = 8 - k % 8 - b + m by omega]
    · simp [hm]
  · rw [if_neg hone, Nat.testBit_or, Nat.testBit_shiftLeft, Nat.testBit_and, Nat.testBit_two_pow_sub_one,
      Nat.testBit_shiftRight]
    by_cases hsecond : m < k % 8 + b - 8
    · rw [show (k + (b - 1 - m)) / 8 = k / 8 + 1 by omega,
        show 7 - (k + (b - 1 - m)) % 8 = 8 - (k % 8 + b - 8) + m by omega]
      simp [show ¬ k % 8 + b - 8 ≤ m by omega, show m < b by omega, Nat.add_assoc]
    · rw [hhigh (_ + 1) (by omega)]
      by_cases hm : m < b
      · rw [show (k + (b - 1 - m)) / 8 = k / 8 by omega,
          show 7 - (k + (b - 1 - m)) % 8 = m - (k % 8 + b - 8) by omega]
        simp [hm, show k % 8 + b - 8 ≤ m by omega, show m - (k % 8 + b - 8) < 8 - k % 8 by omega]
      · simp [hm, show ¬ m - (k % 8 + b - 8) < 8 - k % 8 by omega]

theorem pixelIndex_lt {b : Nat} (hb : b ≤ 8) (x y : Nat) (s : State) : s.pixelIndex b x y < 2 ^ b :=
  Nat.lt_pow_two_of_testBit _ fun m hm => by simp [testBit_pixelIndex hb, Nat.not_lt.2 hm]

/-! ## The pixel of a format -/

/-- The key of a plane pixel, from its bits (46_unpack_render.md R292, R293). -/
def State.pixelKey (x y : Nat) (s : State) : ColourKey :=
  classify (s.planeBit 0 x y) (decide (s.b = 2) && s.planeBit s.psize x y)

/-- The colour of an index, white where it is none of the table's (46_unpack_render.md R298). -/
def State.indexColour (i : Nat) (s : State) : Rgb := if i < s.n then s.ctRgb i else Config.white

section
variable {s : State} {x y : Nat}

theorem pixel_of_planes (hb : s.b ≤ 2) (x y : Nat) :
    s.pixel x y = (s.keyColour (s.pixelKey x y), s.raiseIf (s.keyMisses (s.pixelKey x y)) .keymiss) :=
  (if_pos hb).trans (lookupKey_eq _ s)

theorem pixel_of_index (hb : 2 < s.b) (x y : Nat) :
    s.pixel x y = (s.indexColour (s.pixelIndex s.b x y), s.raiseIf (decide (s.n ≤ s.pixelIndex s.b x y)) .idxoor) := by
  refine (if_neg (Nat.not_le.2 hb)).trans ?_
  unfold State.indexColour State.raiseIf
  by_cases hi : s.pixelIndex s.b x y < s.n <;> simp [hi]

variable {work : Memory 24}

/-- PLANE.READ under the format at hand draws the pixel of `render()` (46_unpack_render.md R290, R292). -/
theorem exec_planeRead (he : s.engine = .drawing x y work) (hx : x < s.we) (hy : y < s.he) (hb : s.b ≤ 2)
    (hfit : s.np * s.psize ≤ s.caps.pbCap) :
    exec (.planeRead s.regs.bpp) s = .next ((s.pixel x y).2.drawPixel x y work (s.pixel x y).1) := by
  have hin : ¬ s.caps.pbCap ≤ (if s.b = 2 then s.psize else 0) + s.planeIndex x y :=
    Nat.not_le.2 (Nat.lt_of_lt_of_le (lastPlaneByte_lt hb hx hy) hfit)
  rw [State.pixel, if_pos hb]
  exact (onPixel_of_drawing he hx hy _).trans (if_neg hin)

/-- INDEX.EXTRACT under the format at hand draws the pixel of `render()` (46_unpack_render.md R290, R297). -/
theorem exec_indexExtract (he : s.engine = .drawing x y work) (hx : x < s.we) (hy : y < s.he) (hb : 2 < s.b)
    (hfit : s.np * s.psize ≤ s.caps.pbCap) :
    exec (.indexExtract s.regs.bpp) s = .next ((s.pixel x y).2.drawPixel x y work (s.pixel x y).1) := by
  have hnp : s.np = 1 := if_neg (Nat.ne_of_gt hb)
  have hin : ¬ s.caps.pbCap ≤ s.lastIndexByte s.b x y := by
    have := lastIndexByte_lt_psize hb hx hy
    rw [hnp, Nat.one_mul] at hfit
    omega
  refine ((onPixel_of_drawing he hx hy _).trans (if_neg hin)).trans ?_
  rw [State.pixel, if_neg (Nat.not_le.2 hb)]
  dsimp only
  change (if s.pixelIndex s.b x y < s.n then _ else _) = _
  split <;> rfl

end

/-- Settles O37: the instruction draws the pixel of its format, whose colour is that of the key its bits make. -/
theorem planePixelGetsItsKeysColour : Obligations.PlanePixelGetsItsKeysColour := by
  rintro _ s x y work he hx hy rfl - hb2 hfit kb kc first absent
  have hkey : s.pixelKey x y = classify kb kc := by
    rw [State.pixelKey, planeBit_eq, planeBit_eq, Nat.zero_add, State.planeIndex, ← Nat.add_assoc]
    rfl
  have hexec := exec_planeRead he hx hy hb2 hfit
  rw [pixel_of_planes hb2, hkey] at hexec
  refine ⟨_, s.keyColour (classify kb kc), s.keyMisses (classify kb kc), s.gridWith x y work _, hexec,
    fun h => ?_, fun h h' => ?_, fun h h' => ?_, drawPixel_raiseIf_engine .., fun k => read_gridWith ..,
    drawPixel_raiseIf_status .., drawPixel_raiseIf_frame ..⟩
  · have hk : classify kb kc = .black := by rw [h]; cases kc <;> rfl
    rw [hk]
    exact keyColour_spec .black s
  · rw [h, h']
    exact keyColour_spec .white s
  · rw [h, h']
    obtain ⟨hfirst, habsent⟩ := keyColour_spec .colour s
    refine ⟨hfirst, fun i hno hi => ?_, fun hno hno' => ?_⟩
    · obtain ⟨hc, hmiss⟩ := habsent hno
      exact ⟨hc.trans (tagColour_of_first hi), hmiss⟩
    · obtain ⟨hc, hmiss⟩ := habsent hno
      exact ⟨hc.trans (tagColour_of_absent hno'), hmiss⟩

/-- Settles O38: the instruction draws the pixel of its format, whose index is made of the row's bits. -/
theorem indexPixelGetsItsEntrysColour : Obligations.IndexPixelGetsItsEntrysColour := by
  rintro _ s x y work he hx hy rfl hb3 hb8 hfit rowBit
  have hexec := exec_indexExtract he hx hy hb3 hfit
  rw [pixel_of_index hb3] at hexec
  have hstatus := drawPixel_raiseIf_status s x y work (s.indexColour (s.pixelIndex s.b x y))
    (decide (s.n ≤ s.pixelIndex s.b x y)) .idxoor
  refine ⟨_, s.pixelIndex s.b x y, s.indexColour (s.pixelIndex s.b x y), s.gridWith x y work _, hexec,
    pixelIndex_lt hb8 x y s, fun j hj => ?_, fun hi => ⟨if_pos hi, ?_⟩, fun hi => ⟨if_neg (Nat.not_lt.2 hi), ?_⟩,
    drawPixel_raiseIf_engine .., fun k => read_gridWith .., drawPixel_raiseIf_frame ..⟩
  · have hj' : s.regs.bpp.toNat - 1 - (s.regs.bpp.toNat - 1 - j) = j := by omega
    refine (testBit_pixelIndex hb8 x y _ s).trans ?_
    rw [hj', decide_eq_true (by omega), Bool.true_and]
    rfl
  · rw [hstatus, decide_eq_false (Nat.not_le.2 hi)]
    rfl
  · rw [hstatus, decide_eq_true hi]
    rfl

end Sys2Proof.Machine
end

section
/-!
PROOFS. The rotation engine (46_unpack_render.md R299–R304): the image a finished work grid is stored as (O39, O40).
-/

namespace Sys2Proof.Machine

/-! ## The image -/

/-- The number of a place, counted row after row, gives back its column and row. -/
theorem place_div_mod {w x : Nat} (hx : x < w) (y : Nat) : (y * w + x) / w = y ∧ (y * w + x) % w = x :=
  (Nat.div_mod_unique (Nat.zero_lt_of_lt hx)).2 ⟨by ring, hx⟩

section
variable (src : Nat → Nat → Nat × Nat) (work : Memory 24)

/-- The image in IMG: word (x, y) is the pixel `src` takes it from, and the words behind the image are as before
(46_unpack_render.md R304; 10_state.md R44). -/
theorem imgWord_setImgWords_imageWords (s : State) :
    (∀ x y, x < s.w → y < s.h → (s.setImgWords 0 (s.imageWords src work)).imgWord (y * s.w + x) =
      0#8 ++ s.workPixel work (src x y).1 (src x y).2) ∧
    ∀ a, s.w * s.h ≤ a → (s.setImgWords 0 (s.imageWords src work)).imgWord a = s.imgWord a := by
  refine ⟨fun x y hx hy => ?_, fun a ha => Memory.read_write_outside (.inr (by simpa using ha))⟩
  have hk : y * s.w + x < (s.imageWords src work).length := by
    rw [imageWords_length]
    calc y * s.w + x < (y + 1) * s.w := by rw [Nat.succ_mul]; omega
      _ ≤ s.h * s.w := Nat.mul_le_mul_right _ hy
      _ = s.w * s.h := Nat.mul_comm ..
  obtain ⟨hrow, hcol⟩ := place_div_mod hx y
  calc (s.setImgWords 0 (s.imageWords src work)).imgWord (y * s.w + x)
      = (s.setImgWords 0 (s.imageWords src work)).imgWord (0 + (y * s.w + x)) := by rw [Nat.zero_add]
    _ = (s.imageWords src work)[y * s.w + x] := Memory.read_write_inside hk
    _ = 0#8 ++ s.workPixel work (src x y).1 (src x y).2 := by
      simp only [State.imageWords, List.getElem_map, List.getElem_range, hcol, hrow, imgWordOf]

/-! ## The step -/

variable {work}

/-- A rotation of a finished grid inside IMG stores its image and completes (46_unpack_render.md R304; 47_host_operations.md
R350). -/
theorem rotate_rotatesTo {s : State} (he : s.engine = .rotating work) (hfit : s.w * s.h ≤ s.caps.imgCap) :
    ∃ t, s.rotate src = .next t ∧ s.rotatesTo work (fun x y => (src x y).2) (fun x y => (src x y).1) t := by
  obtain ⟨hinside, houtside⟩ := imgWord_setImgWords_imageWords src work s
  have hstore : s.sameRegistersBut [] (s.setImgWords 0 (s.imageWords src work)) := ⟨rfl, fun r _ => by cases r <;> rfl⟩
  exact ⟨_, rotate_eq_next.2 ⟨work, he, (imageWords_length ..).trans_le hfit, rfl⟩, hinside, houtside, fun _ => rfl,
    fun _ => rfl, rfl, rfl, hstore.trans (complete_sameRegisters _), rfl, rfl, rfl⟩

end

/-! ## The grid's sides -/

theorem evenRot_size {s : State} (h : s.oddRot = false) : s.we = s.w ∧ s.he = s.h := by
  simp [State.we, State.he, h]

theorem oddRot_size {s : State} (h : s.oddRot = true) : s.we = s.h ∧ s.he = s.w := by
  simp [State.we, State.he, h]

/-- Settles O39: an even rotation code keeps the grid's sides, and both rotations store an image. -/
theorem evenRotationsPlaceEveryPixel : Obligations.EvenRotationsPlaceEveryPixel := fun _ _ _ he hfit =>
  ⟨fun hrot => and_assoc.1 ⟨evenRot_size (by rw [State.oddRot, hrot]; rfl), rotate_rotatesTo _ he hfit⟩,
    fun hrot => and_assoc.1 ⟨evenRot_size (by rw [State.oddRot, hrot]; rfl), rotate_rotatesTo _ he hfit⟩⟩

/-- Settles O40: an odd rotation code exchanges the grid's sides, and both rotations store an image. -/
theorem oddRotationsPlaceEveryPixel : Obligations.OddRotationsPlaceEveryPixel := fun _ _ _ he hfit =>
  ⟨fun hrot => and_assoc.1 ⟨oddRot_size (by rw [State.oddRot, hrot]; rfl), rotate_rotatesTo _ he hfit⟩,
    fun hrot => and_assoc.1 ⟨oddRot_size (by rw [State.oddRot, hrot]; rfl), rotate_rotatesTo _ he hfit⟩⟩

end Sys2Proof.Machine
end

section
/-!
PROOFS. Rendering as one transition (46_unpack_render.md R290, R308): the work grid that the pixels of `render()` leave, and
the image it is rotated into (O60).
-/

namespace Sys2Proof.Machine

/-! ## What the events of a pixel change -/

/-- A state that differs in STATUS at most, as a render's pixels leave it (46_unpack_render.md R295, R298). -/
def State.SameButStatus (s t : State) : Prop := ∃ v, t = { s with status := v }

section
variable {s t u : State}

theorem State.SameButStatus.refl (s : State) : s.SameButStatus s := ⟨_, rfl⟩

theorem State.SameButStatus.trans (h : s.SameButStatus t) (k : t.SameButStatus u) : s.SameButStatus u := by
  obtain ⟨_, rfl⟩ := h
  obtain ⟨_, rfl⟩ := k
  exact ⟨_, rfl⟩

theorem State.sameButStatus_raiseIf (c : Bool) (e : Event) (s : State) : s.SameButStatus (s.raiseIf c e) := by
  cases c
  · exact .refl s
  · exact ⟨_, rfl⟩

/-- The grid has its places, and a pixel its colour, whatever STATUS holds. -/
theorem State.SameButStatus.grid (h : s.SameButStatus t) (x y : Nat) :
    t.we = s.we ∧ t.workIndex x y = s.workIndex x y ∧ (t.pixel x y).1 = (s.pixel x y).1 := by
  obtain ⟨v, rfl⟩ := h
  refine ⟨rfl, rfl, ?_⟩
  rcases Nat.lt_or_ge 2 s.b with hindex | hplanes
  · rw [pixel_of_index hindex, pixel_of_index (s := { s with status := v }) hindex]
    rfl
  · rw [pixel_of_planes hplanes, pixel_of_planes (s := { s with status := v }) hplanes]
    rfl

theorem pixel_sameButStatus (x y : Nat) (s : State) : s.SameButStatus (s.pixel x y).2 := by
  rcases Nat.lt_or_ge 2 s.b with hindex | hplanes
  · rw [pixel_of_index hindex]
    exact s.sameButStatus_raiseIf ..
  · rw [pixel_of_planes hplanes]
    exact s.sameButStatus_raiseIf ..

theorem drawAll_sameButStatus (ps : List (Nat × Nat)) (work : Memory 24) (s : State) :
    s.SameButStatus (State.drawAll ps work s).2 := by
  induction ps generalizing work s with
  | nil => exact .refl s
  | cons p ps ih => exact (pixel_sameButStatus ..).trans (ih ..)

end

/-! ## The work grid -/

section
variable {s : State} {x y : Nat}

theorem workIndex_inj {x' y' : Nat} (hx : x < s.we) (hx' : x' < s.we) :
    s.workIndex x y = s.workIndex x' y' ↔ (x, y) = (x', y') := by
  obtain ⟨hrow, hcol⟩ := place_div_mod hx y
  obtain ⟨hrow', hcol'⟩ := place_div_mod hx' y'
  refine ⟨fun h => Prod.ext ?_ ?_, fun h => by cases h; rfl⟩
  · exact hcol.symm.trans ((congrArg (· % s.we) h).trans hcol')
  · exact hrow.symm.trans ((congrArg (· / s.we) h).trans hrow')

/-- Every pixel of the list has its colour in the grid, and every other place is as before: pixels of the grid have places
of their own, and what the pixels before it raise does not change a pixel's colour. -/
theorem read_drawAll {ps : List (Nat × Nat)} (hps : ∀ p ∈ ps, p.1 < s.we) (hx : x < s.we) (work : Memory 24) :
    Memory.read Config.white (State.drawAll ps work s).1 (s.workIndex x y) =
      if (x, y) ∈ ps then (s.pixel x y).1 else Memory.read Config.white work (s.workIndex x y) := by
  induction ps generalizing work s with
  | nil => exact (if_neg List.not_mem_nil).symm
  | cons p ps ih =>
    obtain ⟨x', y'⟩ := p
    obtain ⟨hwe, hplace, hcolour⟩ := (pixel_sameButStatus x' y' s).grid x y
    obtain ⟨hx', hps⟩ := List.forall_mem_cons.1 hps
    have hrest := ih (hwe ▸ hps) (hwe ▸ hx) (Memory.write Config.white work (s.workIndex x' y') [(s.pixel x' y').1])
    rw [hplace, hcolour, Memory.read_write_one] at hrest
    refine hrest.trans ?_
    simp only [workIndex_inj hx hx', List.mem_cons]
    by_cases hfirst : (x, y) = (x', y')
    · cases hfirst
      simp
    · simp [hfirst]

theorem mem_allPixels : (x, y) ∈ s.allPixels ↔ x < s.we ∧ y < s.he := by
  simp [State.allPixels, and_comm]

/-- A render draws every pixel of its We × He grid (46_unpack_render.md R290). -/
theorem workPixel_drawAll (hx : x < s.we) (hy : y < s.he) :
    s.workPixel (State.drawAll s.allPixels [] s).1 x y = (s.pixel x y).1 := by
  have hps : ∀ p ∈ s.allPixels, p.1 < s.we := fun p hp => (mem_allPixels.1 hp).1
  exact (read_drawAll hps hx []).trans (if_pos (mem_allPixels.2 ⟨hx, hy⟩))

/-! ## The operation -/

/-- A pixel of the image is taken from a pixel of the grid (46_unpack_render.md R299–R302). -/
theorem rotSource_inside (hx : x < s.w) (hy : y < s.h) :
    (s.rotSource x y).1 < s.we ∧ (s.rotSource x y).2 < s.he := by
  have hcodes : ∀ r : BitVec 2, r = 0 ∨ r = 1 ∨ r = 2 ∨ r = 3 := by decide
  rcases hcodes s.regs.rot with hrot | hrot | hrot | hrot <;>
    simp [State.rotSource, State.we, State.he, State.oddRot, hrot] <;> omega

/-- Rendering raises events and stores the image of its grid (46_unpack_render.md R290, R304). -/
theorem renderBody_eq (hfit : s.w * s.h ≤ s.caps.imgCap) :
    ∃ v, s.renderBody = .next (State.setImgWords 0 (s.imageWords s.rotSource (State.drawAll s.allPixels [] s).1)
      { s with status := v }) := by
  obtain ⟨v, hv⟩ := drawAll_sameButStatus s.allPixels [] s
  refine ⟨v, ?_⟩
  rw [State.renderBody, hv]
  exact engineImgWrite_of_le ((Nat.zero_add _).trans_le ((imageWords_length ..).trans_le hfit))

/-- The transition of an accepted RENDER is its body and completion (47_host_operations.md R347, R350). -/
theorem operation_render {u : State} (hop : s.regs.op = 2) (hc : s.configOk 2 = true) (hbody : s.renderBody = .next u) :
    s.operation = .next u.complete := by
  rw [State.operation, hop, if_pos hc]
  exact congrArg (andThen · _) hbody

theorem imageFits_of_configOk (hc : s.configOk 2 = true) : s.w * s.h ≤ s.caps.imgCap := by
  obtain ⟨-, himage⟩ := Bool.and_eq_true_iff.1 (show (_ && s.imageOk) = true from hc)
  exact of_decide_eq_true himage

end

/-- Settles O60: the pixels leave their colours in the grid and change STATUS alone, and the rotation stores the grid. -/
theorem renderWritesTheImageOfThePlanes : Obligations.RenderWritesTheImageOfThePlanes := by
  intro s _ _ hop hc
  obtain ⟨_, hbody⟩ := renderBody_eq (imageFits_of_configOk hc)
  obtain ⟨hinside, houtside⟩ := imgWord_setImgWords_imageWords s.rotSource (State.drawAll s.allPixels [] s).1 s
  refine ⟨_, operation_render hop hc hbody, fun x y hx hy => ?_, houtside, fun _ => rfl⟩
  obtain ⟨hcol, hrow⟩ := rotSource_inside hx hy
  rw [← workPixel_drawAll hcol hrow]
  exact hinside x y hx hy

end Sys2Proof.Machine
end

section
/-!
PROOFS. The host operations (47_host_operations.md): what a CTRL write stores (O42), what the configuration check means (O43)
and how a launched operation begins (O44).
-/

namespace Sys2Proof.Machine

/-! ## CTRL writes -/

/-- Settles O42: in IDLE neither write is refused, and each stores what it stores. -/
theorem ctrlWritesStoreOpAndStart : Obligations.CtrlWritesStoreOpAndStart := fun _ _ he =>
  ⟨if_neg (State.not_busy_of_idle he), if_neg (State.not_busy_of_idle he)⟩

/-! ## The configuration check -/

section
variable {s : State}

/-- The rotation code is odd for a quarter turn either way (10_state.md R27, R37). -/
theorem oddRot_iff : s.oddRot = true ↔ s.regs.rot = 1 ∨ s.regs.rot = 3 := by
  have hcodes : ∀ r : BitVec 2, r.getLsbD 0 = true ↔ r = 1 ∨ r = 3 := by decide
  exact hcodes s.regs.rot

/-- No entry has a TAG exactly where its count is 0. -/
theorem countTag_eq_zero {t : BitVec 2} : s.countTag t = 0 ↔ ∀ i, i < s.n → s.ctTag i ≠ t := by
  simp [State.countTag]

/-- At most one entry has a TAG exactly where its count is at most 1: the indices counted are distinct. -/
theorem countTag_le_one {t : BitVec 2} :
    s.countTag t ≤ 1 ↔ ∀ i j, i < s.n → j < s.n → s.ctTag i = t → s.ctTag j = t → i = j := by
  have hdistinct : ((List.range s.n).filter (fun i => s.ctTag i == t)).Nodup := List.nodup_range.filter _
  rw [State.countTag, ← List.toFinset_card_of_nodup hdistinct, Finset.card_le_one]
  simp only [List.mem_toFinset, List.mem_filter, List.mem_range, beq_iff_eq, and_imp]
  exact ⟨fun h i j hi hj ti tj => h i hi ti j hj tj, fun h i hi ti j hj tj => h i j hi hj ti tj⟩

/-- The conditions on the picture, shared by the operations that have one, before whatever else an operation asks for
(47_host_operations.md R343). -/
theorem pictureOk_and_iff {rest : Bool} : (s.dimsOk && s.bppOk && s.planesOk && rest) = true ↔
    (1 ≤ s.w ∧ 1 ≤ s.h) ∧ (1 ≤ s.b ∧ s.b ≤ 8) ∧ s.np * s.psize ≤ s.caps.pbCap ∧ rest = true := by
  simp only [Bool.and_assoc, Bool.and_eq_true]
  exact and_congr decide_eq_true_iff (and_congr decide_eq_true_iff (and_congr_left' decide_eq_true_iff))

/-- The conditions on the colour table and the image, shared by the operations that render (47_host_operations.md R343). -/
theorem renderOk_iff : (s.ctCountOk && s.tagsOk && s.keysOk && s.imageOk) = true ↔
    s.n ≤ 256 ∧ (∀ i, i < s.n → s.ctTag i ≠ 3) ∧
    (∀ i j, i < s.n → j < s.n → s.ctTag i = 1 → s.ctTag j = 1 → i = j) ∧
    (∀ i j, i < s.n → j < s.n → s.ctTag i = 2 → s.ctTag j = 2 → i = j) ∧ s.w * s.h ≤ s.caps.imgCap := by
  simp only [State.ctCountOk, State.tagsOk, State.keysOk, State.imageOk, Bool.and_eq_true,
    decide_eq_true_eq, countTag_eq_zero, countTag_le_one, and_assoc]
  rfl

theorem inLenOk_iff : s.inLenOk = true ↔ s.regs.inLen.toNat ≤ s.caps.inCap := decide_eq_true_iff

theorem configOk_decode : s.configOk 1 = (s.dimsOk && s.bppOk && s.planesOk && s.inLenOk) := rfl

theorem configOk_render :
    s.configOk 2 = (s.dimsOk && s.bppOk && s.planesOk && (s.ctCountOk && s.tagsOk && s.keysOk && s.imageOk)) := by
  simp only [← Bool.and_assoc]
  rfl

theorem configOk_decodeRender :
    s.configOk 3 = (s.dimsOk && s.bppOk && s.planesOk &&
      (s.inLenOk && (s.ctCountOk && s.tagsOk && s.keysOk && s.imageOk))) := by
  simp only [← Bool.and_assoc]
  rfl

theorem configOk_g5 : s.configOk 4 = true ↔ s.regs.inLen.toNat ≤ s.caps.inCap ∧ s.regs.expLen.toNat ≤ s.caps.pbCap :=
  Bool.and_eq_true_iff.trans (and_congr inLenOk_iff decide_eq_true_iff)

theorem bpr_of_planes (hb : s.b ≤ 2) : s.we ≤ 8 * s.bpr ∧ 8 * s.bpr < s.we + 8 := by
  rw [State.bpr, if_pos hb, ceilDivNat]
  omega

theorem bpr_of_index (hb : 3 ≤ s.b) : s.we * s.b ≤ 8 * s.bpr ∧ 8 * s.bpr < s.we * s.b + 8 := by
  rw [State.bpr, if_neg (Nat.not_le.2 hb), ceilDivNat]
  omega

end

/-- Settles O43: the geometry by its definitions, and each column by its conditions in turn. -/
theorem configurationCheckMeansItsTable : Obligations.ConfigurationCheckMeansItsTable := by
  intro s w h b odd dims bpp inLen count noTag3 atMostOne image expLen
  refine ⟨s.we, s.he, s.bpr, s.np, fun hodd => oddRot_size (oddRot_iff.2 hodd),
    fun heven => evenRot_size (Bool.eq_false_iff.2 (oddRot_iff.not.2 heven)), bpr_of_planes, bpr_of_index,
    fun hb => if_pos hb, fun hb => if_neg hb, rfl, rfl, rfl, rfl, rfl, rfl, rfl, rfl, rfl, ?_, ?_, ?_, configOk_g5,
    rfl, rfl, rfl⟩
  · rw [configOk_decode, pictureOk_and_iff, inLenOk_iff]
    rfl
  · rw [configOk_render, pictureOk_and_iff, renderOk_iff]
    rfl
  · rw [configOk_decodeRender, pictureOk_and_iff, Bool.and_eq_true_iff, inLenOk_iff, renderOk_iff]
    rfl

/-! ## The launch -/

section
variable {s : State} {op : BitVec 3} (he : s.engine = .launched) (hop : s.regs.op = op)
include he hop

theorem runOperation_accepted (hc : s.configOk op = true) (body : State → State) :
    s.runOperation op body = .next (body s) :=
  runOperation_eq_next.2 ⟨he, hop, (if_pos hc).symm⟩

theorem runOperation_rejected (hc : s.configOk op = false) (body : State → State) :
    s.runOperation op body = .next s.cfgError :=
  runOperation_eq_next.2 ⟨he, hop, (if_neg (Bool.eq_false_iff.1 hc)).symm⟩

end

/-- A decode begins with every byte of the planes 0 and every other byte of PB as it was (45_assembler.md R271). -/
theorem pbByte_beginDecode (s : State) (a : Nat) :
    s.beginDecode.pbByte a = if a < s.np * s.psize then 0x00 else s.pbByte a := by
  have hread := Memory.read_clear (d := Config.unlistedByte) (m := s.pbMem) (a := 0) (n := s.np * s.psize) (b := a)
  rw [Nat.zero_add] at hread
  simp only [Nat.zero_le, true_and] at hread
  exact hread

/-- A decode begins with NEXT_PLANE and PB changed, and nothing else that the host can see. -/
theorem beginDecode_frame (s : State) :
    s.sameRegistersBut [.planeState] s.beginDecode ∧ s.sameHostSide s.beginDecode := by
  refine ⟨⟨rfl, fun r hr => ?_⟩, rfl, rfl, rfl⟩
  cases r with
  | planeState => exact absurd List.mem_cons_self hr
  | _ => rfl

/-- Settles O44: each operation by its check, which decides between its body and the configuration error. -/
theorem launchedOperationsBeginOrSetCfgErr : Obligations.LaunchedOperationsBeginOrSetCfgErr := by
  intro s he rejected
  refine ⟨fun hop => runOperation_accepted he hop rfl _, fun i hi => ?_, fun hop hc => runOperation_accepted he hop hc _,
    fun hop hc => ⟨s.inBytes 0 s.regs.inLen.toNat, runOperation_accepted he hop hc _, inBytes_length .., fun i hi => ?_⟩,
    fun hop hc => runOperation_rejected he hop hc _, fun hop hc => runOperation_rejected he hop hc _,
    fun hop hc => runOperation_rejected he hop hc _, fun hop hc => runOperation_rejected he hop hc _,
    fun hop => runOperation_rejected he hop rfl _, fun hop => runOperation_rejected he hop rfl _,
    fun hop => runOperation_rejected he hop rfl _, fun hst => by simp [rejected, hst]⟩
  · have hexec : exec i s = .next s.beginDecode := by
      obtain ⟨rfl, hop, hc⟩ | ⟨rfl, hop, hc⟩ := hi
      · exact runOperation_accepted he hop hc _
      · exact runOperation_accepted he hop hc _
    exact ⟨_, hexec, rfl, rfl, fun a ha => (pbByte_beginDecode s a).trans (if_pos ha),
      fun a ha => (pbByte_beginDecode s a).trans (if_neg (Nat.not_lt.2 ha)), fun _ => rfl, fun _ => rfl,
      beginDecode_frame s⟩
  · rw [inBytes_length] at hi
    simpa using getElem?_inBytes s 0 hi

end Sys2Proof.Machine
end

section
/-!
PROOFS. What the host operations, the pixels and the rotations leave unchanged (47_host_operations.md R353, R354;
46_unpack_render.md R304, R308; O46).
-/

namespace Sys2Proof.Machine

/-! ## The host operations -/

/-- The frame of an instruction that stores nothing in memory, in the order the statement lists it. -/
theorem State.sameBut.frame {regs : List RegName} {bits : List Nat} {s t : State} (h : s.sameBut regs bits t) :
    (s.sameRegistersBut regs t ∧ s.sameStatusBut bits t ∧ s.sameHostSide t) ∧ s.sameMemory t := by
  obtain ⟨hregs, hbits, hmem, hhost⟩ := h
  exact ⟨⟨hregs, hbits, hhost⟩, hmem⟩

section
variable {s t : State}

theorem execCtrlSetop_frame {op : BitVec 3} (h : execCtrlSetop op s = .next t) : s.sameBut [.ctrl] [] t := by
  obtain ⟨-, h⟩ | ⟨-, h⟩ := ite_eq_iff.1 h
  · cases h
  · cases h
    refine ⟨⟨rfl, fun r hr => ?_⟩, fun _ _ => rfl, sameMemory_of_eq rfl rfl rfl, rfl, rfl, rfl⟩
    cases r with
    | ctrl => exact absurd List.mem_cons_self hr
    | _ => rfl

theorem execStart_frame {op : BitVec 3} (h : execStart op s = .next t) :
    s.sameRegistersBut [.ctrl, .status, .cntBlk, .cntCodec0, .cntCodec1, .cntZfail, .g5Out, .g5In] t ∧
      s.sameMemory t ∧ s.sameHostSide t := by
  obtain ⟨-, h⟩ | ⟨-, h⟩ := ite_eq_iff.1 h
  · cases h
  · cases h
    refine ⟨⟨rfl, fun r hr => ?_⟩, sameMemory_of_eq rfl rfl rfl, rfl, rfl, rfl⟩
    cases r with
    | ctrl | status | cntBlk | cntCodec0 | cntCodec1 | cntZfail | g5Out | g5In => simp at hr
    | _ => rfl

/-- The configuration error raises CFG_ERR and completes (47_host_operations.md R344). -/
theorem State.sameBut_cfgError (s : State) : s.sameBut [.status] [0, 1, 2] s.cfgError :=
  ((s.sameBut_raise .cfgErr).trans (State.sameBut_complete _)).mono (by simp) (by simp [Event.code])

/-- An operation changes what its body changes, and BUSY, DONE and CFG_ERR (47_host_operations.md R353). -/
theorem runOperation_sameBut {op : BitVec 3} {body : State → State} {bits : List Nat} (hbits : bits ⊆ [0, 1, 2])
    (hbody : s.sameBut [.status] bits (body s)) (h : s.runOperation op body = .next t) :
    s.sameBut [.status] [0, 1, 2] t := by
  obtain ⟨-, -, rfl⟩ := runOperation_eq_next.1 h
  split
  · exact hbody.mono (List.Subset.refl _) hbits
  · exact s.sameBut_cfgError

/-- NOP, RENDER, G5 and the reserved operations complete or hand over to a unit (47_host_operations.md R345, R347, R349,
R352). -/
theorem exec_operation_sameBut {i : Instr}
    (hi : i = .nop ∨ i = .render ∨ i = .g5 ∨ i = .opRsv5 ∨ i = .opRsv6 ∨ i = .opRsv7) (h : exec i s = .next t) :
    s.sameBut [.status] [0, 1, 2] t := by
  have hunit (e : Engine) : s.sameBut [.status] [] (s.setEngine e) :=
    (s.sameBut_setEngine e).mono (List.nil_subset _) (List.nil_subset _)
  obtain rfl | rfl | rfl | rfl | rfl | rfl := hi
  · exact runOperation_sameBut (by simp) s.sameBut_complete h
  · exact runOperation_sameBut (by simp) (hunit _) h
  · exact runOperation_sameBut (by simp) (hunit _) h
  · exact runOperation_sameBut (by simp) s.sameBut_complete h
  · exact runOperation_sameBut (by simp) s.sameBut_complete h
  · exact runOperation_sameBut (by simp) s.sameBut_complete h

/-- DECODE and DECODE_RENDER clear NEXT_PLANE and the planes, or set CFG_ERR (47_host_operations.md R346, R348, R353). -/
theorem runOperation_beginDecode_frame {op : BitVec 3} (h : s.runOperation op State.beginDecode = .next t) :
    (s.sameRegistersBut [.status, .planeState] t ∧ s.sameStatusBut [0, 1, 2] t ∧ s.sameHostSide t) ∧
      (∀ a, t.inByte a = s.inByte a) ∧ (∀ a, t.imgWord a = s.imgWord a) ∧
        ∀ a, s.np * s.psize ≤ a → t.pbByte a = s.pbByte a := by
  obtain ⟨-, -, rfl⟩ := runOperation_eq_next.1 h
  split
  · obtain ⟨hregs, hhost⟩ := beginDecode_frame s
    exact ⟨⟨hregs.mono (by simp), fun _ _ => rfl, hhost⟩, fun _ => rfl, fun _ => rfl,
      fun a ha => (pbByte_beginDecode s a).trans (if_neg (Nat.not_lt.2 ha))⟩
  · obtain ⟨hregs, hbits, ⟨hin, hpb, himg⟩, hhost⟩ := s.sameBut_cfgError
    exact ⟨⟨hregs.mono (by simp), hbits, hhost⟩, hin, himg, fun a _ => hpb a⟩

/-! ## Pixels and rotations -/

/-- A pixel changes its event's STATUS bit and the work grid (46_unpack_render.md R308). -/
theorem drawPixel_raiseIf_sameBut (s : State) (c : Bool) (e : Event) (x y : Nat) (work : Memory 24) (v : Rgb) :
    s.sameBut [.status] [e.code] ((s.raiseIf c e).drawPixel x y work v) := by
  rw [drawPixel_eq]
  exact (s.sameBut_raiseIf c e).trans (State.sameBut_setEngine _ _)

theorem execPlaneRead_sameBut {bpp : BitVec 4} (h : execPlaneRead bpp s = .next t) : s.sameBut [.status] [12] t := by
  obtain ⟨x, y, work, -, -, -, h⟩ := onPixel_eq_next.1 h
  obtain ⟨-, h⟩ | ⟨-, h⟩ := ite_eq_iff.1 h
  · cases h
  · simp only [lookupKey_eq] at h
    cases h
    exact drawPixel_raiseIf_sameBut s _ .keymiss x y work _

theorem execIndexExtract_sameBut {bpp : BitVec 4} (h : execIndexExtract bpp s = .next t) :
    s.sameBut [.status] [11] t := by
  obtain ⟨x, y, work, -, -, -, h⟩ := onPixel_eq_next.1 h
  dsimp only at h
  split_ifs at h
  · cases h
    exact drawPixel_raiseIf_sameBut s false .idxoor x y work _
  · cases h
    exact drawPixel_raiseIf_sameBut s true .idxoor x y work _

/-- A rotation stores the image and completes (46_unpack_render.md R304; 47_host_operations.md R350). -/
theorem rotate_frame {src : Nat → Nat → Nat × Nat} (h : s.rotate src = .next t) :
    (s.sameRegistersBut [.status] t ∧ s.sameStatusBut [0, 1] t ∧ s.sameHostSide t) ∧
      (∀ a, t.inByte a = s.inByte a) ∧ (∀ a, t.pbByte a = s.pbByte a) ∧
        ∀ a, s.w * s.h ≤ a → t.imgWord a = s.imgWord a := by
  obtain ⟨work, he, hfit, -⟩ := rotate_eq_next.1 h
  obtain ⟨u, hu, -, himg, hin, hpb, -, hstatus, hregs, hhost⟩ :=
    rotate_rotatesTo src he ((imageWords_length ..).symm.trans_le hfit)
  cases h.symm.trans hu
  refine ⟨⟨hregs, fun k hk => ?_, hhost⟩, hin, hpb, himg⟩
  rw [hstatus]
  exact complete_sameStatusBut s k hk

theorem exec_rotation_rotates {i : Instr} {bpp : BitVec 4}
    (hi : i = .rot0 bpp ∨ i = .rot1 bpp ∨ i = .rot2 bpp ∨ i = .rot3 bpp) (h : exec i s = .next t) :
    ∃ src, s.rotate src = .next t := by
  obtain rfl | rfl | rfl | rfl := hi
  · exact ⟨_, h⟩
  · exact ⟨_, h⟩
  · exact ⟨_, h⟩
  · exact ⟨_, h⟩

end

/-- Settles O46: each instruction by what it can answer, and the frame of that. -/
theorem operationAndPixelInstructionsFrame : Obligations.OperationAndPixelInstructionsFrame := by
  intro s t frame
  refine ⟨fun _ h => (execCtrlSetop_frame h).frame, fun _ h => execStart_frame h,
    fun _ hi h => (exec_operation_sameBut hi h).frame, fun i hi h => ?_, fun _ h => (execPlaneRead_sameBut h).frame,
    fun _ h => (execIndexExtract_sameBut h).frame, fun _ _ hi h => ?_⟩
  · obtain rfl | rfl := hi
    · exact runOperation_beginDecode_frame h
    · exact runOperation_beginDecode_frame h
  · obtain ⟨_, hrotate⟩ := exec_rotation_rotates hi h
    exact rotate_frame hrotate

end Sys2Proof.Machine
end

section
/-!
PROOFS. What it is that the engine's steps perform a transition (47_host_operations.md R355), and the transition of a block,
from its payload to its rows: `resolve` and `dispatch` (42_resolver.md R171; 44_framer.md R244).
-/

namespace Sys2Proof.Machine

/-! ## A transition performed by steps -/

/-- The engine's steps from `s` lead to the state a transition answers, seen through `after`: the unit that is next to work,
or the completion. -/
def State.Performs (s : State) (r : Result) (after : State → State) : Prop := ∃ t, r = .next t ∧ s.Reaches (after t)

theorem State.Reaches.sameInputs {s t : State} (h : s.Reaches t) : s.SameInputs t := by
  obtain ⟨k, hk⟩ := h
  induction k generalizing s with
  | zero => cases hk; exact .refl _
  | succ k ih =>
    obtain ⟨u, hu, hk⟩ := andThen_eq_next.1 hk
    exact (engineStep_move hu).sameInputs.trans (ih hk)

section
variable {s t u : State} {r : Result} {after after' : State → State}

theorem State.Reaches.performs (h : s.Reaches (after t)) : s.Performs (.next t) after := ⟨t, rfl, h⟩

theorem State.Reaches.trans_performs (h : s.Reaches u) (h' : u.Performs r after) : s.Performs r after := by
  obtain ⟨t, hr, ht⟩ := h'
  exact ⟨t, hr, h.trans ht⟩

/-- Transitions in sequence are performed in sequence. -/
theorem State.Performs.seq {f : State → Result} (h : s.Performs r after)
    (hf : ∀ t, s.SameInputs (after t) → (after t).Performs (f t) after') : s.Performs (andThen r f) after' := by
  obtain ⟨t, rfl, ht⟩ := h
  exact ht.trans_performs (hf t ht.sameInputs)

end

/-! ## What does not depend on the unit at work -/

section
variable (s : State) (e : Engine)

theorem State.raiseIf_setEngine (c : Bool) (v : Event) : (s.setEngine e).raiseIf c v = (s.raiseIf c v).setEngine e := by
  cases c <;> rfl

theorem State.recordG5_setEngine (g : G5Run) : (s.setEngine e).recordG5 g = (s.recordG5 g).setEngine e :=
  State.raiseIf_setEngine (s.setG5Result g.out.length g.gpos) e _ _

theorem assemble_setEngine {t : State} {d : Bytes} (h : s.assemble d = .next t) :
    (s.setEngine e).assemble d = .next (t.setEngine e) := by
  have hevents : (s.setEngine e).clampEvents d = (s.clampEvents d).setEngine e := by
    simp only [State.clampEvents, State.raiseIf_setEngine]
    rfl
  unfold State.assemble at h ⊢
  dsimp only at h ⊢
  rw [hevents]
  by_cases hn : s.writeLength d = 0
  · rw [if_pos hn] at h
    cases h
    exact if_pos hn
  · rw [if_neg hn] at h
    obtain ⟨u, hu, h⟩ := andThen_eq_next.1 h
    obtain ⟨hle, rfl⟩ := enginePbWrite_eq_next.1 hu
    cases h
    have hwrite := enginePbWrite_of_le (s := ((s.clampEvents d).setEngine e).setNextPlane (s.choosePlane d).2) hle
    refine (if_neg hn).trans ?_
    exact congrArg (fun r => andThen r fun u => .next (u.count Counters.incApplied)) hwrite

theorem pixel_setEngine (x y : Nat) :
    (s.setEngine e).pixel x y = ((s.pixel x y).1, (s.pixel x y).2.setEngine e) := by
  rcases Nat.lt_or_ge 2 s.b with hindex | hplanes
  · rw [pixel_of_index hindex, pixel_of_index (s := s.setEngine e) hindex, State.raiseIf_setEngine]
    rfl
  · rw [pixel_of_planes hplanes, pixel_of_planes (s := s.setEngine e) hplanes, State.raiseIf_setEngine]
    rfl

end

/-! ## A block -/

section
variable {s : State} {fpos : Nat} {p d : Bytes}

/-- The step on block bytes dispatches them and hands over to the framer (44_framer.md R244, R247). -/
theorem performs_dispatch (hfit : s.np * s.psize ≤ s.caps.pbCap) {c : PayloadClass} (hc : c.bytes = some d) :
    (s.setEngine (.dispatching fpos d)).Performs (State.dispatchClass (c, s)) (State.setEngine (.framing fpos)) := by
  rcases Nat.lt_or_ge d.length 6 with hshort | hlen
  · have hclass : State.dispatchClass (c, s) = .next ((s.count Counters.incSkipped).raise .short) := by
      simp only [State.dispatchClass, hc, if_pos hshort]
    rw [hclass]
    refine (State.Reaches.of_step ?_).performs
    rw [engineStep_dispatching rfl, State.dispatch, if_pos hshort]
    rfl
  · obtain ⟨u, hu, -⟩ := assemble_of_planes_fit hfit d
    rw [dispatchClass_of_bytes hc hlen, hu]
    refine (State.Reaches.of_step ?_).performs
    rw [engineStep_dispatching rfl, State.dispatch, if_neg (Nat.not_lt.2 hlen), assemble_setEngine s _ hu]
    rfl

/-- The steps of a G5 decode run it to its end (41_g5.md R141, R150). -/
theorem reaches_g5Decode (s : State) (job : G5Job) (src : Bytes) (exp : Nat) :
    (s.setEngine (.g5 job (G5Run.begin src exp))).Reaches (s.setEngine (.g5 job (g5Decode src exp))) := by
  obtain ⟨k, -, hrun⟩ := engineRun_loop src.length (s := s.setEngine (.g5 job (G5Run.begin src exp))) rfl
  exact ⟨k, hrun⟩

theorem g5Decode_ended (src : Bytes) (exp : Nat) : (g5Decode src exp).running = false :=
  (g5DecodeIsBounded src exp).2.2

/-- The steps on a zlib payload inflate it and dispatch its content, or report its failure (42_resolver.md R173). -/
theorem performs_resolve_zlib (hfit : s.np * s.psize ≤ s.caps.pbCap) (fpos : Nat) (hz : isZlib p = true) :
    (s.setEngine (.resolving fpos p)).Performs (State.dispatchClass (s.resolve p)) (State.setEngine (.framing fpos)) := by
  obtain ⟨-, -, -, hbegin, -⟩ := codedPayloadsStartTheirDecoders (s.setEngine (.resolving fpos p)) fpos p rfl
  obtain ⟨k, hrun⟩ := inflateStepsReachTheResult (s.setEngine (.inflating fpos (Inflate.begin p))) fpos p rfl
  refine (State.Reaches.of_step (hbegin hz)).trans_performs ?_
  cases hd : inflate p with
  | ok d =>
    rw [hd] at hrun
    rw [resolve_zlib s hz hd]
    exact State.Reaches.trans_performs ⟨k, hrun⟩ (performs_dispatch (s := s.count Counters.incZlib) hfit rfl)
  | error e =>
    rw [hd] at hrun
    have hclass : State.dispatchClass (s.resolve p) = .next ((s.count Counters.incZfail).raise .zfail) := by
      rw [State.resolve, if_pos hz, hd]
      rfl
    rw [hclass]
    exact State.Reaches.performs ⟨k, hrun⟩

/-- The steps on a G5 payload decode it and dispatch its header with the bytes decoded (42_resolver.md R175). -/
theorem performs_resolve_g5 (hfit : s.np * s.psize ≤ s.caps.pbCap) (fpos : Nat) (hz : isZlib p = false)
    (hlen : 6 ≤ p.length) (hbit : (byteAt p 4).getLsbD 0 = true) :
    (s.setEngine (.resolving fpos p)).Performs (State.dispatchClass (s.resolve p)) (State.setEngine (.framing fpos)) := by
  have he : (s.setEngine (.resolving fpos p)).engine = .resolving fpos p := rfl
  let g := g5Decode (slice p 6 p.length) (rowCountOf p * s.bpr)
  have hbegin : engineStep (s.setEngine (.resolving fpos p)) = .next (s.setEngine
      (.g5 (.block fpos (slice p 0 6)) (G5Run.begin (slice p 6 p.length) (rowCountOf p * s.bpr)))) := by
    have hdata : slice p 6 p.length = p.drop 6 := by rw [slice, List.take_length]
    rw [engineStep_resolving he, decodePayload_g5 hz hlen hbit, exec_payG5 he, hdata]
    rfl
  have hfinish : engineStep (s.setEngine (.g5 (.block fpos (slice p 0 6)) g)) =
      .next (((s.recordG5 g).count Counters.incG5).setEngine (.dispatching fpos (slice p 0 6 ++ g.out))) := by
    rw [engineStep_finishG5 rfl (g5Decode_ended ..), State.finishG5, State.recordG5_setEngine]
    rfl
  rw [resolve_g5 s hz hlen hbit]
  refine ((State.Reaches.of_step hbegin).trans ((reaches_g5Decode ..).trans (.of_step hfinish))).trans_performs ?_
  exact performs_dispatch (s := (s.recordG5 g).count Counters.incG5) (by simpa [State.recordG5] using hfit) rfl

/-- The steps on a payload resolve it, by the decoder its class asks for, and dispatch its block (42_resolver.md R171). -/
theorem performs_resolve (hfit : s.np * s.psize ≤ s.caps.pbCap) (fpos : Nat) (p : Bytes) :
    (s.setEngine (.resolving fpos p)).Performs (State.dispatchClass (s.resolve p)) (State.setEngine (.framing fpos)) := by
  have he : (s.setEngine (.resolving fpos p)).engine = .resolving fpos p := rfl
  cases hz : isZlib p with
  | true => exact performs_resolve_zlib hfit fpos hz
  | false =>
    rcases Nat.lt_or_ge p.length 6 with hshort | hlen
    · obtain ⟨-, hstep⟩ := shortPayloadIsSkipped _ fpos p he
      have hclass : State.dispatchClass (s.resolve p) = .next ((s.count Counters.incSkipped).raise .short) := by
        rw [State.resolve, if_neg (Bool.eq_false_iff.1 hz), if_pos hshort]
        rfl
      rw [hclass]
      exact State.Reaches.performs (.of_step (hstep hshort hz))
    cases hbit : (byteAt p 4).getLsbD 0 with
    | true => exact performs_resolve_g5 hfit fpos hz hlen hbit
    | false =>
      obtain ⟨-, hstep⟩ := rawPayloadPassesUnchanged _ fpos p he
      rw [resolve_raw s hz hlen hbit]
      exact (State.Reaches.of_step (hstep hlen hz hbit)).trans_performs
        (performs_dispatch (s := s.count Counters.incRaw) hfit rfl)

end

end Sys2Proof.Machine
end

section
/-!
PROOFS. Whole operations as the engine's steps (47_host_operations.md R341, R355): the framer's steps perform `frameAll`, the
unpacker's `render`, the G5 decoder's the body of G5, and with launch and completion `operation` (O59).
-/

namespace Sys2Proof.Machine

/-! ## The stream -/

/-- What follows the stream: DECODE completes, DECODE_RENDER goes on to draw (47_host_operations.md R346, R348). -/
def State.afterDecode (s : State) : State := if s.regs.op = 3 then s.beginRender else s.complete

theorem State.afterDecode_regs (s : State) : s.afterDecode.regs = s.regs := by
  unfold State.afterDecode
  split <;> rfl

theorem endOfStream_setEngine (s : State) (e : Engine) (fpos : Nat) :
    (s.setEngine e).endOfStream fpos = (s.raiseIf (decide (0 < s.streamLeft fpos)) .tail).afterDecode := by
  have htail : (s.setEngine e).raiseIf (decide (0 < s.streamLeft fpos)) .tail =
      (s.raiseIf (decide (0 < s.streamLeft fpos)) .tail).setEngine e := State.raiseIf_setEngine ..
  by_cases hop : s.regs.op = 3
  · refine (State.endOfStream_of_decodeRender (s := s.setEngine e) fpos hop).trans ?_
    refine (congrArg State.beginRender htail).trans (if_pos ?_).symm
    rwa [State.raiseIf_regs]
  · refine (State.endOfStream_of_decode (s := s.setEngine e) fpos hop).trans ?_
    refine (congrArg State.complete htail).trans (if_neg ?_).symm
    rwa [State.raiseIf_regs]

/-- A decode has its planes inside PB and its stream inside IN (47_host_operations.md R343). -/
theorem State.decoding.fits {s : State} (h : s.decoding) :
    s.np * s.psize ≤ s.caps.pbCap ∧ s.regs.inLen.toNat ≤ s.caps.inCap := by
  obtain ⟨hop | hop, hc⟩ := h
  · rw [hop, configOk_decode, pictureOk_and_iff] at hc
    obtain ⟨-, -, hfit, hin⟩ := hc
    exact ⟨hfit, inLenOk_iff.1 hin⟩
  · rw [hop, configOk_decodeRender, pictureOk_and_iff, Bool.and_eq_true_iff] at hc
    obtain ⟨-, -, hfit, hin, -⟩ := hc
    exact ⟨hfit, inLenOk_iff.1 hin⟩

/-- The step on a length takes its frame and hands the payload to the resolver (44_framer.md R242, R243). -/
theorem engineStep_frame {s : State} {fpos : Nat} (hin : s.regs.inLen.toNat ≤ s.caps.inCap)
    (hleft : 4 ≤ s.streamLeft fpos) :
    let len := u32le (s.inBytes fpos 4) 0
    let n := s.frameLength len fpos
    engineStep (s.setEngine (.framing fpos)) =
      .next (((s.raiseIf (decide (s.streamLeft (fpos + 4) < len.toNat)) .trunc).count Counters.incBlocks).setEngine
        (.resolving (fpos + 4 + n) (s.inBytes (fpos + 4) n))) := by
  intro len n
  rw [engineStep_of_fetch (fetch_frame (s := s.setEngine (.framing fpos)) rfl hleft)]
  refine (execFrame_eq_next (s := s.setEngine (.framing fpos))).2 ⟨fpos, rfl, hleft, hin, ?_⟩
  rw [State.raiseIf_setEngine]
  rfl

/-- The framer's steps are the frames of the stream and then its end (44_framer.md R241): every frame takes at least the four
bytes of its length. -/
theorem performs_frameAll {k fpos : Nat} {s : State} (hs : s.decoding) (hk : s.streamLeft fpos < 4 * k) :
    (s.setEngine (.framing fpos)).Performs (State.frameAll k fpos s) State.afterDecode := by
  induction k generalizing fpos s with
  | zero => exact absurd hk (Nat.not_lt_zero _)
  | succ k ih =>
    obtain ⟨hfit, hin⟩ := hs.fits
    unfold State.frameAll
    rcases Nat.lt_or_ge (s.streamLeft fpos) 4 with hend | hleft
    · rw [if_neg (Nat.not_le.2 hend)]
      refine State.Reaches.performs (.of_step ?_)
      rw [engineStep_endOfStream (s := s.setEngine (.framing fpos)) rfl hend, endOfStream_setEngine]
    · rw [if_pos hleft]
      dsimp only
      refine ((State.Reaches.of_step (engineStep_frame hin hleft)).trans_performs
        (performs_resolve (by simpa using hfit) ..)).seq fun u hu => ih (hu.decoding.2 hs) ?_
      have hregs : u.regs = s.regs := hu.regs
      simp only [State.streamLeft, hregs] at hk hleft ⊢
      omega

/-- The steps of a decode perform its body (47_host_operations.md R346). -/
theorem performs_decodeBody {s : State} (hs : s.decoding) : s.beginDecode.Performs s.decodeBody State.afterDecode := by
  have hrounds : s.regs.inLen.toNat - 0 < 4 * (s.regs.inLen.toNat / 4 + 1) := by omega
  exact performs_frameAll (s := (s.setNextPlane 0).zeroPb 0 (s.np * s.psize)) hs hrounds

/-! ## G5 -/

/-- The steps of the G5 operation perform its body (47_host_operations.md R349). -/
theorem performs_g5Body {s : State} (hexp : s.regs.expLen.toNat ≤ s.caps.pbCap) :
    s.beginG5.Performs s.g5Body State.complete := by
  let src := s.inBytes 0 s.regs.inLen.toNat
  let g := g5Decode src s.regs.expLen.toNat
  obtain ⟨hle, -, hend⟩ := g5DecodeIsBounded src s.regs.expLen.toNat
  have hroom : g.out.length ≤ s.caps.pbCap := hle.trans hexp
  have hfinish : engineStep (s.setEngine (.g5 .standalone g)) = .next ((s.recordG5 g).setPbBytes 0 g.out).complete := by
    rw [engineStep_finishG5 (s := s.setEngine (.g5 .standalone g)) rfl hend,
      finishG5_standalone (s := s.setEngine (.g5 .standalone g)) hroom, State.recordG5_setEngine]
    rfl
  have hbody : s.g5Body = .next ((s.recordG5 g).setPbBytes 0 g.out) :=
    enginePbWrite_of_le (by simpa [State.recordG5] using hroom)
  rw [hbody]
  exact State.Reaches.performs ((reaches_g5Decode ..).trans (.of_step hfinish))

/-! ## Drawing -/

section
variable {s : State}

/-- A render has a legal format, its planes inside PB and its image inside IMG (47_host_operations.md R343). -/
theorem State.rendering.fits (h : s.rendering) :
    (1 ≤ s.b ∧ s.b ≤ 8) ∧ s.np * s.psize ≤ s.caps.pbCap ∧ s.w * s.h ≤ s.caps.imgCap := by
  obtain ⟨hop | hop, hc⟩ := h
  · rw [hop, configOk_render, pictureOk_and_iff, renderOk_iff] at hc
    obtain ⟨-, hb, hfit, -, -, -, -, himage⟩ := hc
    exact ⟨hb, hfit, himage⟩
  · rw [hop, configOk_decodeRender, pictureOk_and_iff, Bool.and_eq_true_iff, renderOk_iff] at hc
    obtain ⟨-, hb, hfit, -, -, -, -, -, himage⟩ := hc
    exact ⟨hb, hfit, himage⟩

theorem State.SameButStatus.rendering {t : State} (h : s.SameButStatus t) (hs : s.rendering) : t.rendering := by
  obtain ⟨_, rfl⟩ := h
  exact hs

theorem State.SameButStatus.sides {t : State} (h : s.SameButStatus t) : t.we = s.we ∧ t.he = s.he := by
  obtain ⟨_, rfl⟩ := h
  exact ⟨rfl, rfl⟩

/-- Drawing moves on in the grid of any state that differs in STATUS at most. -/
theorem State.SameButStatus.drawPixel {t : State} (h : s.SameButStatus t) (e : Engine) (x y : Nat) (work : Memory 24)
    (c : Rgb) : (t.setEngine e).drawPixel x y work c = t.setEngine
      (if x + 1 < s.we then .drawing (x + 1) y (s.gridWith x y work c) else .drawing 0 (y + 1) (s.gridWith x y work c)) := by
  obtain ⟨_, rfl⟩ := h
  rw [drawPixel_eq]
  rfl

/-- The step on a pixel is the pixel of `render()`, at its place in the grid (46_unpack_render.md R290). -/
theorem engineStep_pixel (hs : s.rendering) {x y : Nat} (hx : x < s.we) (hy : y < s.he) (work : Memory 24) :
    engineStep (s.setEngine (.drawing x y work)) = .next ((s.pixel x y).2.setEngine
      (if x + 1 < s.we then .drawing (x + 1) y (s.gridWith x y work (s.pixel x y).1)
        else .drawing 0 (y + 1) (s.gridWith x y work (s.pixel x y).1))) := by
  obtain ⟨⟨hb1, hb8⟩, hfit, -⟩ := hs.fits
  have hfetch {i : Instr} (hi : decodePixel s.regs.bpp = .ok i) :
      (s.setEngine (.drawing x y work)).fetch = some (i, s.setEngine (.drawing x y work)) := by
    simp [State.fetch, hx, hy, hi, Except.toOption]
  rw [← (pixel_sameButStatus x y s).drawPixel (.drawing x y work)]
  rcases Nat.lt_or_ge 2 s.b with hindex | hplanes
  · have hi : decodePixel s.regs.bpp = .ok (.indexExtract s.regs.bpp) :=
      (if_neg fun h => Nat.not_le.2 hindex h.2).trans (if_pos ⟨hindex, hb8⟩)
    rw [engineStep_of_fetch (hfetch hi)]
    refine (exec_indexExtract (s := s.setEngine (.drawing x y work)) rfl hx hy hindex hfit).trans ?_
    rw [pixel_setEngine]
  · have hi : decodePixel s.regs.bpp = .ok (.planeRead s.regs.bpp) := if_pos ⟨hb1, hplanes⟩
    rw [engineStep_of_fetch (hfetch hi)]
    refine (exec_planeRead (s := s.setEngine (.drawing x y work)) rfl hx hy hplanes hfit).trans ?_
    rw [pixel_setEngine]

/-- The steps from a pixel to the end of its row draw the pixels of the row that are left. -/
theorem reaches_endOfRow (hs : s.rendering) {n x y : Nat} (hn : x + (n + 1) = s.we) (hy : y < s.he) (work : Memory 24) :
    let r := State.drawAll ((List.range' x (n + 1)).map (fun x => (x, y))) work s
    (s.setEngine (.drawing x y work)).Reaches (r.2.setEngine (.drawing 0 (y + 1) r.1)) := by
  induction n generalizing s x work with
  | zero =>
    have hstep := engineStep_pixel hs (x := x) (by omega) hy work
    rw [if_neg (by omega)] at hstep
    exact .of_step hstep
  | succ n ih =>
    have hpixel := pixel_sameButStatus x y s
    obtain ⟨hwe, hhe⟩ := hpixel.sides
    have hstep := engineStep_pixel hs (x := x) (by omega) hy work
    rw [if_pos (by omega)] at hstep
    exact (State.Reaches.of_step hstep).trans (ih (hpixel.rendering hs) (by omega) (hhe ▸ hy) _)

theorem drawAll_append (ps qs : List (Nat × Nat)) (work : Memory 24) (s : State) :
    State.drawAll (ps ++ qs) work s =
      State.drawAll qs (State.drawAll ps work s).1 (State.drawAll ps work s).2 := by
  induction ps generalizing work s with
  | nil => rfl
  | cons p ps ih => exact ih ..

/-- The pixels of a row of `w` columns. -/
def gridRow (w y : Nat) : List (Nat × Nat) := (List.range w).map (fun x => (x, y))

/-- The steps from the start of a row to the end of the grid draw its rows in turn. -/
theorem reaches_endOfGrid (hs : s.rendering) {m y : Nat} (hm : y + m = s.he) (work : Memory 24) :
    let r := State.drawAll ((List.range' y m).flatMap (gridRow s.we)) work s
    (s.setEngine (.drawing 0 y work)).Reaches (r.2.setEngine (.drawing 0 s.he r.1)) := by
  induction m generalizing s y work with
  | zero =>
    cases hm
    exact .refl _
  | succ m ih =>
    obtain ⟨hwide, -⟩ := State.grid_pos hs
    obtain ⟨n, hn⟩ : ∃ n, s.we = n + 1 := ⟨s.we - 1, by omega⟩
    have hrow := drawAll_sameButStatus (gridRow s.we y) work s
    obtain ⟨hwe, hhe⟩ := hrow.sides
    have hfirst := reaches_endOfRow hs (x := 0) (n := n) (y := y) (by omega) (by omega) work
    rw [← hn, ← List.range_eq_range'] at hfirst
    have hrest := ih (hrow.rendering hs) (y := y + 1) (by omega) (State.drawAll (gridRow s.we y) work s).1
    rw [hwe, hhe] at hrest
    rw [List.range'_succ, List.flatMap_cons, drawAll_append]
    exact State.Reaches.trans hfirst hrest

theorem allPixels_eq (s : State) : s.allPixels = (List.range' 0 s.he).flatMap (gridRow s.we) := by
  rw [← List.range_eq_range']
  rfl

/-! ## Rotating -/

/-- The rotation FMT.ROT selects takes every pixel from `rotSource` (46_unpack_render.md R299–R302). -/
theorem exec_decodeRotate (bpp : BitVec 4) (s : State) :
    exec (decodeRotate s.regs.rot bpp) s = s.rotate s.rotSource := by
  have hcodes : ∀ r : BitVec 2, r = 0 ∨ r = 1 ∨ r = 2 ∨ r = 3 := by decide
  have hsource : s.rotSource = fun x y => s.rotSource x y := rfl
  rw [hsource]
  unfold State.rotSource
  rcases hcodes s.regs.rot with hrot | hrot | hrot | hrot
  all_goals rw [hrot]; rfl

/-- The step behind the last pixel hands the grid to the rotation. -/
theorem engineStep_gridDone (s : State) (work : Memory 24) :
    engineStep (s.setEngine (.drawing 0 s.he work)) = .next (s.setEngine (.rotating work)) := by
  simp [engineStep, State.fetch, State.tau, State.setEngine_setEngine]

/-- The step on a finished grid stores the image and completes (46_unpack_render.md R304; 47_host_operations.md R350). -/
theorem engineStep_rotate (himage : s.w * s.h ≤ s.caps.imgCap) (work : Memory 24) :
    engineStep (s.setEngine (.rotating work)) =
      .next (s.setImgWords 0 (s.imageWords s.rotSource work)).complete := by
  have hfetch : (s.setEngine (.rotating work)).fetch =
      some (decodeRotate s.regs.rot s.regs.bpp, s.setEngine (.rotating work)) := rfl
  rw [engineStep_of_fetch hfetch]
  refine (exec_decodeRotate s.regs.bpp (s.setEngine (.rotating work))).trans (rotate_eq_next.2 ⟨work, rfl, ?_, rfl⟩)
  rwa [imageWords_length]

/-- The steps of a render perform its body (46_unpack_render.md R290; 47_host_operations.md R347). -/
theorem performs_renderBody (hs : s.rendering) : s.beginRender.Performs s.renderBody State.complete := by
  let r := State.drawAll s.allPixels [] s
  obtain ⟨v, hv⟩ := drawAll_sameButStatus s.allPixels [] s
  have himage : r.2.w * r.2.h ≤ r.2.caps.imgCap := by
    rw [show r.2 = _ from hv]
    exact hs.fits.2.2
  have hbody : s.renderBody = .next (r.2.setImgWords 0 (r.2.imageWords r.2.rotSource r.1)) :=
    engineImgWrite_of_le ((Nat.zero_add _).trans_le ((imageWords_length ..).trans_le himage))
  have hdraw := reaches_endOfGrid hs (Nat.zero_add s.he) []
  rw [← allPixels_eq] at hdraw
  have hdone := engineStep_gridDone r.2 r.1
  rw [(drawAll_sameButStatus s.allPixels [] s).sides.2] at hdone
  rw [hbody]
  exact State.Reaches.performs (hdraw.trans ((State.Reaches.of_step hdone).trans (.of_step (engineStep_rotate himage _))))

end

/-! ## The operation -/

/-- What a launched operation does first where its configuration is accepted (47_host_operations.md R345–R349). -/
def launchBody (op : BitVec 3) : State → State :=
  match op.toNat with
  | 1 => State.beginDecode
  | 2 => State.beginRender
  | 3 => State.beginDecode
  | 4 => State.beginG5
  | _ => State.complete

theorem op_cases : ∀ op : BitVec 3, op = 0 ∨ op = 1 ∨ op = 2 ∨ op = 3 ∨ op = 4 ∨ op = 5 ∨ op = 6 ∨ op = 7 := by decide

theorem exec_decodeOp (op : BitVec 3) (s : State) : exec (decodeOp op) s = s.runOperation op (launchBody op) := by
  obtain rfl | rfl | rfl | rfl | rfl | rfl | rfl | rfl := op_cases op
  all_goals rfl

section
variable {s : State}

/-- The first step of an operation is its check and the beginning of its body (47_host_operations.md R341, R343, R344). -/
theorem engineStep_launched (he : s.engine = .launched) :
    engineStep s = .next (if s.configOk s.regs.op then launchBody s.regs.op s else s.cfgError) := by
  have hfetch : s.fetch = some (decodeOp s.regs.op, s) := by rw [State.fetch, he]
  rw [engineStep_of_fetch hfetch, exec_decodeOp]
  exact runOperation_eq_next.2 ⟨he, rfl, rfl⟩

/-- An operation ends in a completion, whichever way it goes (47_host_operations.md R350, R344). -/
theorem operation_completed {t : State} (h : s.operation = .next t) : ∃ u : State, t = u.complete := by
  unfold State.operation at h
  split at h
  · obtain ⟨u, -, h⟩ := andThen_eq_next.1 h
    exact ⟨u, next_eq_next.1 h⟩
  · exact ⟨_, next_eq_next.1 h⟩

/-- A body that is performed up to completion is performed with it. -/
theorem State.Performs.completed {r : Result} (h : s.Performs r State.complete) :
    s.Performs (andThen r (fun t => .next t.complete)) id :=
  h.seq fun _ _ => State.Reaches.performs (.refl _)

/-- The steps of DECODE perform its body and complete (47_host_operations.md R346). -/
theorem performs_decode (hop : s.regs.op = 1) (hc : s.configOk 1 = true) :
    s.beginDecode.Performs s.decodeBody State.complete := by
  obtain ⟨t, hbody, ht⟩ := performs_decodeBody (s := s) ⟨.inl hop, hop ▸ hc⟩
  have hregs : t.regs = s.regs := t.afterDecode_regs.symm.trans ht.sameInputs.regs
  have hafter : t.afterDecode = t.complete := if_neg (by rw [hregs, hop]; decide)
  exact ⟨t, hbody, hafter ▸ ht⟩

/-- The steps of DECODE_RENDER perform the body of DECODE and then that of RENDER (47_host_operations.md R348). -/
theorem performs_decodeRender (hop : s.regs.op = 3) (hc : s.configOk 3 = true) :
    s.beginDecode.Performs (andThen s.decodeBody State.renderBody) State.complete := by
  have hconfig : s.configOk s.regs.op = true := hop ▸ hc
  refine (performs_decodeBody (s := s) ⟨.inr hop, hconfig⟩).seq fun t ht => ?_
  have hregs : t.regs = s.regs := t.afterDecode_regs.symm.trans ht.regs
  have hafter : t.afterDecode = t.beginRender := if_pos (by rw [hregs, hop])
  rw [hafter] at ht ⊢
  exact performs_renderBody (ht.rendering.2 ⟨.inr hop, hconfig⟩)

/-- The steps of a launched operation perform its one transition (47_host_operations.md R341, R343–R350). -/
theorem performs_operation (he : s.engine = .launched) : s.Performs s.operation id := by
  refine (State.Reaches.of_step (engineStep_launched he)).trans_performs ?_
  unfold State.operation
  cases hc : s.configOk s.regs.op with
  | false => exact State.Reaches.performs (.refl _)
  | true =>
    rw [if_pos rfl, if_pos rfl]
    obtain hop | hop | hop | hop | hop | hop | hop | hop := op_cases s.regs.op <;> rw [hop] at hc ⊢
    · exact State.Performs.completed ⟨s, rfl, .refl _⟩
    · exact (performs_decode hop hc).completed
    · exact (performs_renderBody ⟨.inl hop, hop ▸ hc⟩).completed
    · exact (performs_decodeRender hop hc).completed
    · exact (performs_g5Body (configOk_g5.1 hc).2).completed
    · cases hc
    · cases hc
    · cases hc

end

/-- Settles O59: the launch is one step, and every unit's steps perform its part of the transition. -/
theorem operationStepsAddUpToTheTransition : Obligations.OperationStepsAddUpToTheTransition := by
  intro s _ he
  obtain ⟨t, hop, k, hrun⟩ := performs_operation he
  obtain ⟨u, rfl⟩ := operation_completed hop
  exact ⟨k, _, hrun, hop, rfl, complete_busyBit u, complete_doneBit u⟩

end Sys2Proof.Machine
end

section
/-!
PROOFS. The engine never stops (60_exceptions.md R370): from a state with the invariant every unit answers a next state, and no
access of the host is a fault (O55).
-/

namespace Sys2Proof.Machine

/-! ## Every unit answers a next state -/

section
variable {s : State}

/-- Whatever the class of a payload, the resolver goes on (42_resolver.md R171). -/
theorem exec_decodePayload_next {fpos : Nat} {p : Bytes} (he : s.engine = .resolving fpos p) :
    ∃ t, exec (decodePayload p) s = .next t := by
  have answer (f : Nat → Bytes → State) : ∃ t, s.onPayload f = .next t := ⟨_, onPayload_of_resolving he f⟩
  unfold decodePayload
  split_ifs
  · exact answer _
  · exact answer _
  · exact answer _
  · exact answer _
  · exact answer _
  · exact answer _

/-- A G5 decode goes on, or ends with its bytes inside PB (41_g5.md R146; 47_host_operations.md R343, R349). -/
theorem engineStep_g5_next {job : G5Job} {g : G5Run} (he : s.engine = .g5 job g) (hg : s.g5Ok job g) :
    ∃ t, engineStep s = .next t := by
  cases hr : g.running with
  | true => exact ⟨_, engineStep_command he hr⟩
  | false =>
    rw [engineStep_finishG5 he hr]
    cases job with
    | standalone =>
      obtain ⟨hbound, -, hc, -, hexp⟩ := hg
      obtain ⟨-, hroom⟩ := configOk_g5.1 hc
      exact ⟨_, finishG5_standalone (hbound.trans (hexp.trans_le hroom))⟩
    | block fpos header => exact ⟨_, rfl⟩

/-- Whatever bits a payload holds, the inflate goes on or fails the payload (43_inflate.md R218). -/
theorem engineStep_inflating_next {fpos : Nat} {z : Inflate} (he : s.engine = .inflating fpos z) :
    ∃ t, engineStep s = .next t := by
  cases hf : z.fetch with
  | none => exact ⟨_, engineStep_inflateTau he hf⟩
  | some read =>
    obtain ⟨i, z'⟩ := read
    obtain ⟨⟨_, hctx, rfl, -⟩, r, rfl, -⟩ := Inflate.fetch_eq_some hf
    rw [engineStep_of_fetch (fetch_inflating he hf)]
    obtain ⟨hgoes, -⟩ :=
      deflateInstructionGoesOnOrFails i (s.setEngine (.inflating fpos (z.setReader r))) fpos (z.setReader r) rfl hctx
    obtain ⟨z₂, hok⟩ | hfail := hgoes
    · exact ⟨_, hok⟩
    · exact ⟨_, hfail⟩

/-- Block bytes are skipped or assembled (44_framer.md R247; 45_assembler.md R268). -/
theorem engineStep_dispatching_next {fpos : Nat} {d : Bytes} (he : s.engine = .dispatching fpos d)
    (hfit : s.np * s.psize ≤ s.caps.pbCap) : ∃ t, engineStep s = .next t := by
  rcases Nat.lt_or_ge d.length 6 with hshort | hlen
  · exact ⟨_, shortBlockBytesAreSkipped s fpos d he hshort⟩
  · obtain ⟨_, -, hstep⟩ := engineStep_assembles he hlen hfit
    exact ⟨_, hstep⟩

/-- The engine's step is a next state, by the unit at work and what the invariant says it holds (60_exceptions.md R370). -/
theorem State.Inv.engineStep_next (h : s.Inv) : ∃ t, engineStep s = .next t := by
  cases he : s.engine with
  | idle => exact ⟨_, engineStep_of_idle he⟩
  | launched => exact ⟨_, engineStep_launched he⟩
  | framing fpos =>
    obtain ⟨hd, -⟩ : s.cursorOk fpos := h.unit he
    rcases Nat.lt_or_ge (s.streamLeft fpos) 4 with hend | hleft
    · exact ⟨_, engineStep_endOfStream he hend⟩
    · rw [← State.setEngine_self he]
      exact ⟨_, engineStep_frame hd.fits.2 hleft⟩
  | resolving fpos p =>
    rw [engineStep_resolving he]
    exact exec_decodePayload_next he
  | g5 job g => exact engineStep_g5_next he (h.unit he)
  | inflating fpos z => exact engineStep_inflating_next he
  | dispatching fpos d =>
    obtain ⟨hd, -⟩ : s.cursorOk fpos := h.unit he
    exact engineStep_dispatching_next he hd.fits.1
  | drawing x y work =>
    obtain ⟨hr, -, ⟨hx, hy⟩ | ⟨rfl, rfl⟩⟩ :
        s.rendering ∧ s.gridOk work ∧ ((x < s.we ∧ y < s.he) ∨ (x = 0 ∧ y = s.he)) := h.unit he
    · rw [← State.setEngine_self he]
      exact ⟨_, engineStep_pixel hr hx hy work⟩
    · rw [← State.setEngine_self he]
      exact ⟨_, engineStep_gridDone s work⟩
  | rotating work =>
    obtain ⟨hr, -⟩ : s.rendering ∧ _ := h.unit he
    rw [← State.setEngine_self he]
    exact ⟨_, engineStep_rotate hr.fits.2.2 work⟩

theorem State.Inv.engineStep_ne_fault (h : s.Inv) (e : Fault) : engineStep s ≠ .fault e := by
  obtain ⟨t, ht⟩ := h.engineStep_next
  rw [ht]
  exact nofun

end

/-! ## No access of the host is a fault -/

theorem ite_ne_fault {c : Prop} [Decidable c] {r r' : Result} {e : Fault} (h : r ≠ .fault e) (h' : r' ≠ .fault e) :
    (if c then r else r') ≠ .fault e := by
  split
  · exact h
  · exact h'

theorem exec_decodeCtrlWrite_ne_fault (v : Word) (s : State) (e : Fault) : exec (decodeCtrlWrite v) s ≠ .fault e := by
  unfold decodeCtrlWrite
  split
  · exact ite_ne_fault nofun nofun
  · exact ite_ne_fault nofun nofun

/-- An access of the host is refused or answers a next state (20_memory.md R74, R75). -/
theorem hostAct_ne_fault (a : HostAction) (s : State) (e : Fault) : hostAct a s ≠ .fault e := by
  cases a with
  | regRead => exact ite_ne_fault nofun nofun
  | regWrite _ _ v =>
    exact ite_ne_fault (ite_ne_fault (exec_decodeCtrlWrite_ne_fault v s e) (ite_ne_fault nofun nofun)) nofun
  | inRead => exact ite_ne_fault nofun nofun
  | inWrite => exact ite_ne_fault nofun (ite_ne_fault nofun nofun)
  | pbRead => exact ite_ne_fault nofun (ite_ne_fault nofun nofun)
  | pbWrite => exact ite_ne_fault nofun (ite_ne_fault nofun nofun)
  | imgRead => exact ite_ne_fault nofun (ite_ne_fault nofun nofun)
  | imgWrite => exact nofun
  | poll => exact nofun
  | reset => exact nofun

/-- Settles O55: the engine's step by the unit at work; the machine's step is the engine's or an access of the host. -/
theorem theEngineNeverStops : Obligations.TheEngineNeverStops := by
  intro s h
  refine ⟨h.engineStep_next, fun e => ?_⟩
  unfold step
  split
  · exact h.engineStep_ne_fault e
  · exact ite_ne_fault ((h.setInputs _).engineStep_ne_fault e) (hostAct_ne_fault _ _ e)

end Sys2Proof.Machine
end

section
/-!
PROOFS. What the engine records (60_exceptions.md R371, R372; 10_state.md R30): events stick, and a move counts at most one
counter up by one (O57).
-/

namespace Sys2Proof.Machine

/-! ## Events -/

/-- Every STATUS bit but BUSY that is set stays set (60_exceptions.md R372). -/
def State.KeepsEvents (s t : State) : Prop := ∀ k, 1 ≤ k → s.status.getLsbD k = true → t.status.getLsbD k = true

section
variable {s t u : State}

theorem State.KeepsEvents.of_status_eq (h : t.status = s.status) : s.KeepsEvents t := fun _ _ hk => h ▸ hk

theorem State.KeepsEvents.trans (h : s.KeepsEvents t) (h' : t.KeepsEvents u) : s.KeepsEvents u :=
  fun k hk hs => h' k hk (h k hk hs)

theorem State.KeepsEvents.raise (h : s.KeepsEvents t) (e : Event) : s.KeepsEvents (t.raise e) :=
  fun k hk hs => by rw [State.raise_status, BitVec.getLsbD_or, h k hk hs, Bool.true_or]

theorem State.KeepsEvents.raiseIf (h : s.KeepsEvents t) (c : Bool) (e : Event) : s.KeepsEvents (t.raiseIf c e) := by
  cases c
  · exact h
  · exact h.raise e

/-- Completion clears BUSY alone (47_host_operations.md R350). -/
theorem State.KeepsEvents.complete (h : s.KeepsEvents t) : s.KeepsEvents t.complete := by
  intro k hk hs
  rcases Nat.eq_or_lt_of_le hk with rfl | hlt
  · exact complete_doneBit t
  · have hother : k ∉ [0, 1] := by simp [Nat.one_le_iff_ne_zero.1 hk, Nat.ne_of_gt hlt]
    rw [complete_sameStatusBut t k hother]
    exact h k hk hs

theorem State.KeepsEvents.endOfStream (s : State) (fpos : Nat) : s.KeepsEvents (s.endOfStream fpos) := by
  have htail : s.KeepsEvents (s.raiseIf (decide (0 < s.streamLeft fpos)) .tail) := .raiseIf (.of_status_eq rfl) _ _
  by_cases hop : s.regs.op = 3
  · rw [State.endOfStream_of_decodeRender fpos hop]
    exact htail
  · rw [State.endOfStream_of_decode fpos hop]
    exact htail.complete

theorem State.KeepsEvents.recordG5 (s : State) (g : G5Run) : s.KeepsEvents (s.recordG5 g) :=
  State.KeepsEvents.raiseIf (t := s.setG5Result g.out.length g.gpos) (.of_status_eq rfl) _ _

theorem State.KeepsEvents.assemble {d : Bytes} (h : s.assemble d = .next u) : s.KeepsEvents u := by
  have hclamp : s.KeepsEvents (s.clampEvents d) := .raiseIf (.raiseIf (.of_status_eq rfl) _ _) _ _
  exact hclamp.trans (.of_status_eq (assemble_status h))

/-- No move of the engine clears an event (60_exceptions.md R372). -/
theorem State.EngineMove.keepsEvents (m : s.EngineMove t) : s.KeepsEvents t := by
  have hs : s.KeepsEvents s := .of_status_eq rfl
  cases m with
  | configError => exact (hs.raise _).complete
  | noBody => exact hs.complete
  | frame => exact hs.raiseIf _ _
  | endOfStream fpos => exact .endOfStream s fpos
  | shortPayload => exact hs.raise _
  | shortBlock => exact hs.raise _
  | g5Store g => exact (State.KeepsEvents.recordG5 s g).complete
  | g5Block _ _ g => exact .recordG5 s g
  | inflateFailed => exact hs.raise _
  | assembled _ _ _ _ _ hu => exact (State.KeepsEvents.assemble hu).trans (.of_status_eq rfl)
  | pixel x y work c u _ _ _ hu =>
    have hevent : s.KeepsEvents u := by
      obtain rfl | rfl | rfl := hu
      · exact hs
      · exact hs.raise _
      · exact hs.raise _
    rw [drawPixel_eq]
    exact hevent
  | image => exact hs.complete
  | _ => exact .of_status_eq rfl

end

/-! ## Counters -/

/-- At most one of the seven counters has been counted up, by one (10_state.md R30). -/
inductive Counters.Counted (c : Counters) : Counters → Prop where
  | none : c.Counted c
  | blocks : c.Counted c.incBlocks
  | applied : c.Counted c.incApplied
  | raw : c.Counted c.incRaw
  | zlib : c.Counted c.incZlib
  | g5 : c.Counted c.incG5
  | skipped : c.Counted c.incSkipped
  | zfail : c.Counted c.incZfail

section
variable {s t : State}

theorem State.endOfStream_cnt (s : State) (fpos : Nat) : (s.endOfStream fpos).cnt = s.cnt := by
  by_cases hop : s.regs.op = 3
  · rw [State.endOfStream_of_decodeRender fpos hop]
    exact State.raiseIf_cnt ..
  · rw [State.endOfStream_of_decode fpos hop]
    exact State.raiseIf_cnt ..

theorem State.recordG5_cnt (s : State) (g : G5Run) : (s.recordG5 g).cnt = s.cnt := State.raiseIf_cnt ..

/-- A move of the engine counts what its unit has done: a block framed, applied, skipped or of one of the classes
(44_framer.md R242; 42_resolver.md R171–R177; 45_assembler.md R269). -/
theorem State.EngineMove.counted (m : s.EngineMove t) : s.cnt.Counted t.cnt := by
  cases m with
  | frame =>
    rw [State.setEngine_cnt, State.count_cnt, State.raiseIf_cnt]
    exact .blocks
  | endOfStream fpos =>
    rw [State.endOfStream_cnt]
    exact .none
  | shortPayload => exact .skipped
  | shortBlock => exact .skipped
  | rawPayload => exact .raw
  | g5Store =>
    rw [State.complete_cnt, State.setPbBytes_cnt, State.recordG5_cnt]
    exact .none
  | g5Block =>
    rw [State.setEngine_cnt, State.count_cnt, State.recordG5_cnt]
    exact .g5
  | inflateFailed => exact .zfail
  | inflated => exact .zlib
  | assembled _ _ _ _ _ hu =>
    rw [State.setEngine_cnt, assemble_cnt hu]
    split
    · exact .none
    · exact .applied
  | pixel x y work c u _ _ _ hu =>
    have hevent : u.cnt = s.cnt := by
      obtain rfl | rfl | rfl := hu
      · rfl
      · rfl
      · rfl
    rw [drawPixel_eq, State.setEngine_cnt, hevent]
    exact .none
  | _ => exact .none

end

/-- Settles O57: every step of the engine is a move, which keeps the events and counts at most one counter up. -/
theorem eventsStickAndCountersSaturate : Obligations.EventsStickAndCountersSaturate := by
  intro s t h counts
  have hmove := engineStep_move h
  have same (a : BitVec 16) : counts a a := .inl rfl
  have up (a : BitVec 16) : counts a (satInc a) := .inr (satInc_toNat a)
  have hcounted := hmove.counted
  refine ⟨hmove.keepsEvents, ?_⟩
  generalize t.cnt = c at hcounted ⊢
  cases hcounted with
  | none => exact ⟨same _, same _, same _, same _, same _, same _, same _⟩
  | blocks => exact ⟨up _, same _, same _, same _, same _, same _, same _⟩
  | applied => exact ⟨same _, up _, same _, same _, same _, same _, same _⟩
  | raw => exact ⟨same _, same _, up _, same _, same _, same _, same _⟩
  | zlib => exact ⟨same _, same _, same _, up _, same _, same _, same _⟩
  | g5 => exact ⟨same _, same _, same _, same _, up _, same _, same _⟩
  | skipped => exact ⟨same _, same _, same _, same _, same _, up _, same _⟩
  | zfail => exact ⟨same _, same _, same _, same _, same _, same _, up _⟩

end Sys2Proof.Machine
end

section
/-!
PROOFS. Reset (70_reset_and_hazards.md R400, R401): what both resets leave (O51), and that the machine starts in the invariant
(O53).
-/

namespace Sys2Proof.Machine

/-- The reset input leaves every register 0, whatever the memories hold (70_reset_and_hazards.md R400). -/
theorem resetInput_regRead (s : State) (i p : List Host.Cell) (g : Memory 32) (r : RegName) :
    (s.resetInput i p g).regRead r = 0 := by
  cases r with
  | ctrl => exact (by decide : ctrlWord false 0 = 0)
  | fmt => exact (by decide : fmtWord 0 0 = 0)
  | width | height | ctCount | cntBlk | cntCodec0 | cntCodec1 | cntZfail | planeState | ct => exact BitVec.zero_append_zero
  | status | inLen | expLen | g5Out | g5In | reserved => rfl

/-- Power-on leaves what a reset input that carries nothing leaves. -/
theorem reset_regRead (r : RegName) : State.reset.regRead r = 0 := resetInput_regRead State.reset [] [] [] r

theorem reset_memoriesOk : State.reset.MemoriesOk := State.MemoriesOk.resetInput State.reset [] [] []

/-- Loading entries into an empty memory leaves the reads the entries say. -/
theorem Memory.holdsLast_ofCells {w : Nat} (d : BitVec w) (n : Nat) (cells : List (Nat × BitVec w)) :
    Memory.holdsLast d n cells (Memory.read d (Memory.ofCells d n cells [])) :=
  ⟨fun _ _ _ _ hcells hlast ha => hcells ▸ Memory.read_ofCells_last ha hlast, fun _ h => Memory.read_ofCells_other h⟩

/-- Settles O51: power-on reads as a reset input does, and a reset input loads its memories into empty ones. -/
theorem resetClearsEveryRegister : Obligations.ResetClearsEveryRegister :=
  ⟨⟨rfl, reset_regRead⟩, fun s i p g =>
    ⟨s.resetInput i p g, rfl, rfl, resetInput_regRead s i p g, rfl, ⟨rfl, rfl, rfl⟩,
      Memory.holdsLast_ofCells .., Memory.holdsLast_ofCells .., Memory.holdsLast_ofCells ..⟩⟩

/-- Settles O53: the capacities are admitted, the memories are those of a reset input, and IDLE keeps nothing. -/
theorem invariantHoldsAtReset : Obligations.InvariantHoldsAtReset where
  caps := by decide
  memories := reset_memoriesOk
  reserved := BitVec.zero_and
  busyFlag := rfl
  doneFlag := fun _ => rfl
  nextPlane := rfl
  engine := trivial

end Sys2Proof.Machine
end

section
/-!
PROOFS. The host's accesses while BUSY (70_reset_and_hazards.md R403–R405): what each answers (O49).
-/

namespace Sys2Proof.Machine

section
variable {s : State} (hb : s.busy = true)
include hb

/-! ## Writes -/

theorem hostAct_regWrite_busy {off : Nat} (hok : regAccessOk 32 off = true) (hr : regAt off ≠ .ctrl) (v : Word) :
    hostAct (.regWrite 32 off v) s = .refused .writeBusy :=
  (if_pos hok).trans ((if_neg hr).trans (if_pos hb))

/-- A CTRL write without START is refused as CTRL.SETOP (70_reset_and_hazards.md R403). -/
theorem hostAct_ctrlSetop_busy {v : Word} (hv : v.getLsbD 8 = false) :
    hostAct (.regWrite 32 0 v) s = .refused .writeBusy := by
  have hdecode : decodeCtrlWrite v = .ctrlSetop (v.extractLsb' 0 3) := if_neg (Bool.eq_false_iff.1 hv)
  calc hostAct (.regWrite 32 0 v) s = exec (decodeCtrlWrite v) s := rfl
    _ = execCtrlSetop (v.extractLsb' 0 3) s := by rw [hdecode]; rfl
    _ = .refused .writeBusy := if_pos hb

/-- A CTRL write with START is refused as START (70_reset_and_hazards.md R405). -/
theorem hostAct_start_busy {v : Word} (hv : v.getLsbD 8 = true) :
    hostAct (.regWrite 32 0 v) s = .refused .startBusy := by
  have hdecode : decodeCtrlWrite v = .start (v.extractLsb' 0 3) := if_pos hv
  calc hostAct (.regWrite 32 0 v) s = exec (decodeCtrlWrite v) s := rfl
    _ = execStart (v.extractLsb' 0 3) s := by rw [hdecode]; rfl
    _ = .refused .startBusy := if_pos hb

theorem hostAct_inWrite_busy {a : Nat} (ha : a < s.caps.inCap) (v : Byte) :
    hostAct (.inWrite a v) s = .refused .writeBusy :=
  (if_neg (Nat.not_le.2 ha)).trans (if_pos hb)

theorem hostAct_pbWrite_busy {a : Nat} (ha : a < s.caps.pbCap) (v : Byte) :
    hostAct (.pbWrite a v) s = .refused .writeBusy :=
  (if_neg (Nat.not_le.2 ha)).trans (if_pos hb)

/-! ## Reads -/

theorem hostAct_statusRead_busy : hostAct (.regRead 32 4) s = .next (s.respond (.word busyBit)) :=
  congrArg Host.Outcome.next ((if_pos hb).trans (if_pos rfl))

theorem hostAct_regRead_busy {off : Nat} (hok : regAccessOk 32 off = true) (hr : regAt off ≠ .status) :
    hostAct (.regRead 32 off) s = .next (s.respond (.word (Config.busyWord s.freeIx))).drawn :=
  (if_pos hok).trans (congrArg Host.Outcome.next ((if_pos hb).trans (if_neg hr)))

theorem hostAct_pbRead_busy {a : Nat} (ha : a < s.caps.pbCap) :
    hostAct (.pbRead a) s = .next (s.respond (.byte (Config.busyByte s.freeIx))).drawn :=
  (if_neg (Nat.not_le.2 ha)).trans (if_pos hb)

theorem hostAct_imgRead_busy {a : Nat} (ha : a < s.caps.imgCap) :
    hostAct (.imgRead a) s = .next (s.respond (.word (Config.busyWord s.freeIx))).drawn :=
  (if_neg (Nat.not_le.2 ha)).trans (if_pos hb)

end

/-- Settles O49: each access by what it answers while BUSY; IN reads as in every phase. -/
theorem busyHostAccesses : Obligations.BusyHostAccesses := fun _ hb =>
  ⟨fun _ v hok hr => hostAct_regWrite_busy hb hok hr v, fun _ => hostAct_ctrlSetop_busy hb, fun _ => hostAct_start_busy hb,
    fun _ v ha => hostAct_inWrite_busy hb ha v, fun _ v ha => hostAct_pbWrite_busy hb ha v, hostAct_statusRead_busy hb,
    fun _ => hostAct_inRead, fun _ hok hr => ⟨_, hostAct_regRead_busy hb hok hr⟩,
    fun _ ha => ⟨_, hostAct_pbRead_busy hb ha⟩, fun _ ha => ⟨_, hostAct_imgRead_busy hb ha⟩⟩

end Sys2Proof.Machine
end
